-- ==== Sys2Proof/Word.lean ====
section
/-! DEFINITION. The word types of the block (00_scope.md R9, R11): every value is unsigned and wraps at its width. -/

namespace Sys2Proof

/-- 8 bits: a byte of the page buffer. -/
abbrev Byte := BitVec 8

/-- 16 bits: the width of the header field `free_space`. -/
abbrev Half := BitVec 16

/-- 32 bits: the register width, the command word, a CRC value. -/
abbrev Word := BitVec 32

end Sys2Proof
end

