-- ==== Sys2Proof/Config.lean ====
section
/-! DEFINITION. What is fixed for this hardware (00_scope.md R9, R10), the platform's parameter, and the free values
the spec leaves open. The default page-type tag and the CRC's parameters stand beside the operations that use them
(Machine/Operands.lean, Machine/Crc.lean). -/

namespace Sys2Proof.Config

/-- `PAGE_SIZE` (R9, R10): this hardware has no other page size. -/
abbrev pageSize : Nat := 4096

/-- `PAGE_HEADER_SIZE` (R9). -/
abbrev pageHeaderSize : Nat := 16

/-- `PAGE_USABLE_SIZE` (R9). -/
abbrev pageUsableSize : Nat := pageSize - pageHeaderSize

/-- `CHECKSUM_OFFSET` (R9): where the exclusion window begins. -/
abbrev checksumOffset : Nat := 8

/-- `CHECKSUM_WIDTH` in bytes (R9). -/
abbrev checksumWidth : Nat := 4

/-- `BUF_CAP` (R9): bytes in the page buffer. -/
abbrev bufCap : Nat := 4096

/-- `INVALID_PAGE_ID` (R9). No command treats it apart from other ids (41_header.md R125). -/
def invalidPageId : Word := 0

/-- `MAX_PAGE_ID` (R9, D37). No command uses it in a check. -/
def maxPageId : Word := 0xFFFFFFFF

/-- Bytes in the host window (20_memory.md R50). -/
abbrev windowSize : Nat := 0x2000

/-- The window offset at which the buffer window begins (20_memory.md R50, R52). -/
abbrev bufWindow : Nat := 0x1000

/-- PARAMETER, uninterpreted (93 U12, log 12): where the platform puts the block, in whole windows. -/
opaque windowIndex : Nat

/-- `BASE` (20_memory.md R51): a multiple of the window's size by construction. -/
def base : Nat := windowSize * windowIndex

/-- FREE VALUE, uninterpreted (70_reset_and_hazards.md R231, log 1): the byte that BUF offset `k` holds after the
`n`-th reset until something writes it. -/
opaque resetByte (n k : Nat) : Byte

/-- FREE VALUE, uninterpreted (70_reset_and_hazards.md R242, log 4): what the `n`-th undefined read in flight
answers, before it is cut to the width of what was read. -/
opaque freeRead (n : Nat) : Word

end Sys2Proof.Config
end

