-- ==== Sys2Proof/Syntax.lean ====
section
/-! DEFINITION. The command set: the raw fields of a command word (30_encoding.md R81), the 22 opcodes (R84), the six
header fields (R85), and `Instr`, one constructor per row of spec/opcode_table.json. -/

namespace Sys2Proof

/-- The header fields of 30_encoding.md R85, in the order of SEL. -/
inductive HdrField
  | pageId | pageType | flags | freeSpace | checksum | lsn
deriving DecidableEq, Repr

/-- The three command formats (30_encoding.md R82). -/
inductive Format
  | n  -- no operand field
  | s  -- SEL is live
  | b  -- V is live
deriving DecidableEq, Repr

/-- The opcodes of 30_encoding.md R84. -/
inductive Op
  | crc32 | pcsum | calcChecksum | verify | iscorr | pageNew
  | hdrDefault | hdrNew | hdrPack | hdrUnpack | fldGet | fldSet
  | getDirty | setDirty | getPinned | setPinned
  | typeDecode | isBtree | isFreelist | isOverflow | isData | isMeta
deriving DecidableEq, Repr

/-- A command word split into the fields of 30_encoding.md R81. -/
structure CmdFields where
  op  : BitVec 8   -- bits 7:0
  sel : BitVec 4   -- bits 11:8
  z1  : BitVec 4   -- bits 15:12
  v   : BitVec 1   -- bit 16
  z2  : BitVec 15  -- bits 31:17
deriving DecidableEq, Repr

/-- A command of the block: one constructor per row of the opcode table. The V operand of the two B-format commands
is the only operand a command word carries beside the row itself. -/
inductive Instr
  | crc32
  | pcsum
  | calcChecksum
  | verify
  | iscorr
  | pageNew
  | hdrDefault
  | hdrNew
  | hdrPack
  | hdrUnpack
  | fldGetPageId
  | fldGetPageType
  | fldGetFlags
  | fldGetFreeSpace
  | fldGetChecksum
  | fldGetLsn
  | fldSetPageId
  | fldSetPageType
  | fldSetFlags
  | fldSetFreeSpace
  | fldSetChecksum
  | fldSetLsn
  | getDirty
  | setDirty (v : Bool)
  | getPinned
  | setPinned (v : Bool)
  | typeDecode
  | isBtree
  | isFreelist
  | isOverflow
  | isData
  | isMeta
deriving DecidableEq, Repr

end Sys2Proof
end

