-- ==== Sys2Proof/WellFormed.lean ====
section
/-! DEFINITION. Which command words are legal, read from 30_encoding.md R81 to R87 alone and independently of the
decoder: one check per reason of R87. `Instr` itself needs no check: its only operand is a Bool, and every value of it
is legal (R83). -/

namespace Sys2Proof.CmdFields

/-- The OP values of 30_encoding.md R84; every other one is reserved (R87). -/
def legalOps : List (BitVec 8) :=
  [0x01, 0x02, 0x03, 0x04, 0x05, 0x08, 0x10, 0x11, 0x12, 0x13, 0x14, 0x15,
   0x18, 0x19, 0x1A, 0x1B, 0x20, 0x21, 0x22, 0x23, 0x24, 0x25]

/-- OP is in the table of R84. -/
def opLegal (f : CmdFields) : Bool := legalOps.contains f.op

/-- Z1 is zero (R81). -/
def z1Zero (f : CmdFields) : Bool := f.z1 == 0

/-- Z2 is zero (R81). -/
def z2Zero (f : CmdFields) : Bool := f.z2 == 0

/-- SEL is 0 to 5 in FLD_GET (0x14) and FLD_SET (0x15), and 0 in every other command (R82, R85). -/
def selLegal (f : CmdFields) : Bool :=
  if f.op = 0x14 ∨ f.op = 0x15 then decide (f.sel.toNat ≤ 5) else f.sel == 0

/-- V is free in SET_DIRTY (0x19) and SET_PINNED (0x1B), and 0 in every other command (R82). -/
def vLegal (f : CmdFields) : Bool :=
  decide (f.op = 0x19 ∨ f.op = 0x1B) || f.v == 0

/-- A legal command word (R86, R87). -/
def wellFormed (f : CmdFields) : Bool :=
  f.opLegal && f.z1Zero && f.z2Zero && f.selLegal && f.vLegal

end Sys2Proof.CmdFields
end

