-- ==== Sys2Proof/Decode.lean ====
section
/-! DEFINITION. The decoder of 30_encoding.md R86, total on every 32-bit word and rejecting by name, and after it the
encoder, written from the tables of R84 and R85. -/

namespace Sys2Proof

/-- Why a word is illegal (30_encoding.md R87). Every one of them raises the same ILLEGAL_COMMAND. -/
inductive DecodeError
  | reservedOpcode  -- OP outside the table of R84
  | z1NotZero       -- bits 15:12
  | z2NotZero       -- bits 31:17
  | selMisplaced    -- a nonzero SEL outside format S
  | vMisplaced      -- V = 1 outside format B
  | selReserved     -- SEL 6 to 15 in format S
deriving DecidableEq, Repr

/-- The fields of a command word (R81). -/
def CmdFields.ofWord (c : Word) : CmdFields :=
  { op := c.extractLsb' 0 8, sel := c.extractLsb' 8 4, z1 := c.extractLsb' 12 4
    v := c.extractLsb' 16 1, z2 := c.extractLsb' 17 15 }

/-- The command word with these fields (R81). -/
def CmdFields.toWord (f : CmdFields) : Word := f.z2 ++ f.v ++ f.z1 ++ f.sel ++ f.op

/-- The opcode map of R84, read from a byte. -/
def Op.ofByte (b : Byte) : Option Op :=
  match b.toNat with
  | 0x01 => some .crc32
  | 0x02 => some .pcsum
  | 0x03 => some .calcChecksum
  | 0x04 => some .verify
  | 0x05 => some .iscorr
  | 0x08 => some .pageNew
  | 0x10 => some .hdrDefault
  | 0x11 => some .hdrNew
  | 0x12 => some .hdrPack
  | 0x13 => some .hdrUnpack
  | 0x14 => some .fldGet
  | 0x15 => some .fldSet
  | 0x18 => some .getDirty
  | 0x19 => some .setDirty
  | 0x1A => some .getPinned
  | 0x1B => some .setPinned
  | 0x20 => some .typeDecode
  | 0x21 => some .isBtree
  | 0x22 => some .isFreelist
  | 0x23 => some .isOverflow
  | 0x24 => some .isData
  | 0x25 => some .isMeta
  | _ => none

/-- The format column of R84. -/
def Op.format : Op → Format
  | .fldGet | .fldSet => .s
  | .setDirty | .setPinned => .b
  | _ => .n

/-- The SEL column of R85. -/
def HdrField.ofSel (sel : BitVec 4) : Option HdrField :=
  match sel.toNat with
  | 0 => some .pageId
  | 1 => some .pageType
  | 2 => some .flags
  | 3 => some .freeSpace
  | 4 => some .checksum
  | 5 => some .lsn
  | _ => none

/-- FLD_GET's row for each field. -/
def Instr.fldGet : HdrField → Instr
  | .pageId => .fldGetPageId
  | .pageType => .fldGetPageType
  | .flags => .fldGetFlags
  | .freeSpace => .fldGetFreeSpace
  | .checksum => .fldGetChecksum
  | .lsn => .fldGetLsn

/-- FLD_SET's row for each field. -/
def Instr.fldSet : HdrField → Instr
  | .pageId => .fldSetPageId
  | .pageType => .fldSetPageType
  | .flags => .fldSetFlags
  | .freeSpace => .fldSetFreeSpace
  | .checksum => .fldSetChecksum
  | .lsn => .fldSetLsn

/-- The command of an opcode and its live operand; none for a SEL of 6 to 15 (R85). -/
def Op.instr (op : Op) (sel : BitVec 4) (v : BitVec 1) : Option Instr :=
  match op with
  | .crc32 => some .crc32
  | .pcsum => some .pcsum
  | .calcChecksum => some .calcChecksum
  | .verify => some .verify
  | .iscorr => some .iscorr
  | .pageNew => some .pageNew
  | .hdrDefault => some .hdrDefault
  | .hdrNew => some .hdrNew
  | .hdrPack => some .hdrPack
  | .hdrUnpack => some .hdrUnpack
  | .fldGet => (HdrField.ofSel sel).map Instr.fldGet
  | .fldSet => (HdrField.ofSel sel).map Instr.fldSet
  | .getDirty => some .getDirty
  | .setDirty => some (.setDirty (v == 1))
  | .getPinned => some .getPinned
  | .setPinned => some (.setPinned (v == 1))
  | .typeDecode => some .typeDecode
  | .isBtree => some .isBtree
  | .isFreelist => some .isFreelist
  | .isOverflow => some .isOverflow
  | .isData => some .isData
  | .isMeta => some .isMeta

/-- `Decode` on the fields of a word, in the order of R86. -/
def decodeFields (f : CmdFields) : Except DecodeError Instr :=
  match Op.ofByte f.op with
  | none => .error .reservedOpcode
  | some op =>
    if f.z1 ≠ 0 then .error .z1NotZero
    else if f.z2 ≠ 0 then .error .z2NotZero
    else if op.format ≠ .s ∧ f.sel ≠ 0 then .error .selMisplaced
    else if op.format ≠ .b ∧ f.v ≠ 0 then .error .vMisplaced
    else match op.instr f.sel f.v with
      | some i => .ok i
      | none => .error .selReserved

/-- `Decode` (30_encoding.md R86), total on every word. -/
def decode (c : Word) : Except DecodeError Instr := decodeFields (CmdFields.ofWord c)

/-- The opcode byte, the SEL value and the V bit of each command (R84, R85). -/
def Instr.code : Instr → BitVec 8 × BitVec 4 × Bool
  | .crc32 => (0x01, 0, false)
  | .pcsum => (0x02, 0, false)
  | .calcChecksum => (0x03, 0, false)
  | .verify => (0x04, 0, false)
  | .iscorr => (0x05, 0, false)
  | .pageNew => (0x08, 0, false)
  | .hdrDefault => (0x10, 0, false)
  | .hdrNew => (0x11, 0, false)
  | .hdrPack => (0x12, 0, false)
  | .hdrUnpack => (0x13, 0, false)
  | .fldGetPageId => (0x14, 0, false)
  | .fldGetPageType => (0x14, 1, false)
  | .fldGetFlags => (0x14, 2, false)
  | .fldGetFreeSpace => (0x14, 3, false)
  | .fldGetChecksum => (0x14, 4, false)
  | .fldGetLsn => (0x14, 5, false)
  | .fldSetPageId => (0x15, 0, false)
  | .fldSetPageType => (0x15, 1, false)
  | .fldSetFlags => (0x15, 2, false)
  | .fldSetFreeSpace => (0x15, 3, false)
  | .fldSetChecksum => (0x15, 4, false)
  | .fldSetLsn => (0x15, 5, false)
  | .getDirty => (0x18, 0, false)
  | .setDirty v => (0x19, 0, v)
  | .getPinned => (0x1A, 0, false)
  | .setPinned v => (0x1B, 0, v)
  | .typeDecode => (0x20, 0, false)
  | .isBtree => (0x21, 0, false)
  | .isFreelist => (0x22, 0, false)
  | .isOverflow => (0x23, 0, false)
  | .isData => (0x24, 0, false)
  | .isMeta => (0x25, 0, false)

/-- The fields of a command's word: Z1 and Z2 are 0 (R81). -/
def Instr.fields (i : Instr) : CmdFields :=
  { op := i.code.1, sel := i.code.2.1, z1 := 0, v := BitVec.ofBool i.code.2.2, z2 := 0 }

/-- The command word of a command (R80: always one word). -/
def encode (i : Instr) : Word := i.fields.toWord

/-- What the decoder reads from an opcode-table row's bits: bit 0 is the least significant bit of the one word, and
the bits above `nbits` are 0. -/
def decodeTableWord (nbits w : Nat) : Option Instr :=
  match decode (BitVec.ofNat 32 (w % 2 ^ nbits)) with
  | .ok i => some i
  | .error _ => none

end Sys2Proof
end

