-- ==== Sys2Proof/Machine/State.lean ====
section
/-! DEFINITION. The state of the block (10_state.md R20, R21, R32) as plain data, the environment's part of it (what
the host does next and what it was answered), and the state after reset (10_state.md R21, 70_reset_and_hazards.md R232). -/

namespace Sys2Proof.Machine

/-- The registers of 10_state.md R21, in the order of their offsets. -/
inductive Reg
  | caps | bufcap | cmd | status | errinfo | len | arg0 | arg1 | result
  | hdrPageId | hdrType | hdrFlags | hdrFree | hdrCksum | hdrLsn
deriving DecidableEq, Repr

/-- What STATUS.ERRCODE can hold (60_exceptions.md R200). Codes 5 to 15 are never produced, so they have no
constructor (log 21). -/
inductive ErrCode
  | noError | invalidInput | invalidPageType | illegalCommand | lengthRange
deriving DecidableEq, Repr

/-- The host faults of 60_exceptions.md R211: recorded in the state, never a stop (log 9). -/
inductive HostFault
  | busMisaligned (a n : Nat)
  | busUnmapped (a : Nat)
  | busReadonly (a : Nat)
  | writeWhileBusy (a : Nat)
deriving DecidableEq, Repr

/-- The page buffer's cells: the bytes written since the last reset, by BUF offset, offsets strictly rising. -/
abbrev Memory := List Host.Cell

/-- The six staging registers as one header in unpacked form, each of its field's width (10_state.md R31). -/
structure Header where
  pageId    : Word
  pageType  : Byte
  flags     : Byte
  freeSpace : Half
  checksum  : Word
  lsn       : Word
deriving DecidableEq, Repr

/-- The direction of a host access. A write carries a bus word, of which the low bytes of the access's width count. -/
inductive Dir
  | read
  | write (v : Word)
deriving DecidableEq, Repr

/-- A host access of `width` bytes at `addr` (20_memory.md R60). -/
structure Access where
  addr  : Nat
  width : Nat
  dir   : Dir
deriving DecidableEq, Repr

/-- One thing the environment does (00_scope.md R8, 70_reset_and_hazards.md R230; log 5). -/
inductive Event
  | host (a : Access)   -- an access, `addr` the window offset
  | bus (a : Access)    -- an access on the platform's bus, `addr` the bus address (20_memory.md R50)
  | engine              -- the engine's turn
  | reset               -- the reset signal
deriving DecidableEq, Repr

/-- What the block answers to a host access. -/
inductive Reply
  | data (v : Word)   -- a read's value, zero-extended to the bus width
  | written           -- an admitted write
  | busError          -- a host fault (60_exceptions.md R210)
deriving DecidableEq, Repr

/-- The machine's state. The first part is the block's (10_state.md R20). The last four fields are the MODEL'S own:
the environment and the counters of the free values (log 3, 4, 5, 7). -/
structure State where
  cmd     : Word
  done    : Bool
  errcode : ErrCode
  errinfo : Word
  len     : Word
  arg0    : Word
  arg1    : Word
  result  : Word
  hdr     : Header
  buf     : Memory
  pending : Option Word
  faults  : List HostFault
  inbox   : List Event
  reply   : Option Reply
  resets  : Nat
  draws   : Nat
deriving DecidableEq, Repr

/-- No step of this block ends in a fault, so there is no constructor: command errors are STATUS values
(60_exceptions.md R203), host faults are recorded in `State.faults` and the run goes on (60_exceptions.md R210). -/
inductive Fault
deriving DecidableEq, Repr

/-- Why a step has no meaning. -/
inductive Refusal
  /-- Raised by an arm of `exec` for a command without a meaning; no arm does so. Safe. -/
  | notModelled (mnemonic : String)
  /-- Raised by a host access at `addr` outside the window: it does not reach the block and the spec says nothing of
  it (20_memory.md R66; 93_implementation_defined.md U10 `refuse`). Safe. -/
  | outsideWindow (addr : Nat)
deriving DecidableEq, Repr

/-- The machine right after reset: 10_state.md R21 and 70_reset_and_hazards.md R232. No byte of BUF is listed, so each
holds its free value (R231). The empty fault set is 70_reset_and_hazards.md R253's launch premise; the model's own
fields are a DESIGN CHOICE (log 3, 4, 5, 7). -/
def State.reset : State where
  cmd := 0
  done := false
  errcode := .noError
  errinfo := 0
  len := 0x00001000
  arg0 := 0
  arg1 := 0
  result := 0
  hdr := { pageId := 0, pageType := 0, flags := 0, freeSpace := 0, checksum := 0, lsn := 0 }
  buf := []
  pending := none
  faults := []
  inbox := []
  reply := none
  resets := 0
  draws := 0

end Sys2Proof.Machine
end

