-- ==== Sys2Proof/Machine/Flags.lean ====
section
/-! DEFINITION. Status computations: the error code's bits and the STATUS word (10_state.md R25, R35;
60_exceptions.md R200), and the two flag bits of a header's flags byte (41_header.md R122). -/

namespace Sys2Proof.Machine

/-- The code of an error (60_exceptions.md R200). -/
def ErrCode.code : ErrCode → BitVec 4
  | .noError => 0
  | .invalidInput => 1
  | .invalidPageType => 2
  | .illegalCommand => 3
  | .lengthRange => 4

/-- STATUS.BUSY: not stored, it reads `pending ≠ none` (10_state.md R25). -/
def State.busy (s : State) : Bool := s.pending.isSome

/-- STATUS.ERR: not stored, it reads ERRCODE ≠ 0 (10_state.md R35). -/
def State.err (s : State) : Bool := s.errcode.code != 0

/-- The STATUS register: BUSY 0, DONE 1, ERR 2, ERRCODE 11:8, every other bit 0 (10_state.md R25). -/
def State.status (s : State) : Word :=
  (0 : BitVec 20) ++ s.errcode.code ++ (0 : BitVec 5) ++ BitVec.ofBool s.err ++ BitVec.ofBool s.done ++
    BitVec.ofBool s.busy

/-- The dirty bit of a flags byte (41_header.md R132). -/
def dirtyBit (flags : Byte) : Bool := flags.getLsbD 0

/-- The pinned bit of a flags byte (41_header.md R134). -/
def pinnedBit (flags : Byte) : Bool := flags.getLsbD 1

/-- A flags byte with its dirty bit set to `v` (41_header.md R133). -/
def withDirty (flags : Byte) (v : Bool) : Byte := (flags &&& 0xFE) ||| (BitVec.ofBool v).setWidth 8

/-- A flags byte with its pinned bit set to `v` (41_header.md R135). -/
def withPinned (flags : Byte) (v : Bool) : Byte :=
  (flags &&& 0xFD) ||| ((BitVec.ofBool v).setWidth 8 <<< 1)

/-- A truth value as a RESULT word: 1 or 0. -/
def boolWord (b : Bool) : Word := if b then 1 else 0

end Sys2Proof.Machine
end

