-- ==== Sys2Proof/Machine/Ops.lean ====
section
/-! DEFINITION. The named operations over the page buffer and the registers: little-endian reads and writes of BUF
(20_memory.md R53, R55), the command latch and `complete` (10_state.md R24, R34), `raise`, which is all there is to
taking an error (60_exceptions.md R203; the block has no trap entry and no return, R209), the recording of host faults
(60_exceptions.md R210) and reset (70_reset_and_hazards.md R230 to R232). -/

namespace Sys2Proof.Machine

/-- The `n` low bytes of a word, lowest first (20_memory.md R53). -/
def leBytes : Nat → Word → List Byte
  | 0, _ => []
  | n + 1, v => v.setWidth 8 :: leBytes n (v >>> 8)

/-- The little-endian value of at most four bytes, zero-extended (20_memory.md R55). -/
def leWord : List Byte → Word
  | [] => 0
  | b :: bs => b.setWidth 32 ||| (leWord bs <<< 8)

/-- The canonical form from offset `lo` on: offsets strictly rising, at least `lo`, inside BUF. -/
def Memory.wfFrom (lo : Nat) : Memory → Bool
  | [] => true
  | (a, _) :: m => decide (lo ≤ a) && decide (a < Config.bufCap) && Memory.wfFrom (a + 1) m

/-- The canonical form of the buffer's cells (log 2): a listed byte is one that something wrote since the reset, so no
listed byte is the free value an unlisted one reads as. -/
def Memory.wf (m : Memory) : Bool := Memory.wfFrom 0 m

/-- The byte listed at an offset. -/
def Memory.lookup : Memory → Nat → Option Byte
  | [], _ => none
  | (a, b) :: m, k => if a = k then some b else Memory.lookup m k

/-- List byte `b` at offset `k`, keeping the offsets rising. -/
def Memory.write : Memory → Nat → Byte → Memory
  | [], k, b => [(k, b)]
  | (a, x) :: m, k, b =>
    if k < a then (k, b) :: (a, x) :: m
    else if k = a then (k, b) :: m
    else (a, x) :: Memory.write m k b

/-- List bytes from offset `k` upward. -/
def Memory.writeBytes : Memory → Nat → List Byte → Memory
  | m, _, [] => m
  | m, k, b :: bs => Memory.writeBytes (Memory.write m k b) (k + 1) bs

/-- The cells that list exactly these bytes from offset `k` upward. -/
def Memory.ofBytes : Nat → List Byte → Memory
  | _, [] => []
  | k, b :: bs => (k, b) :: Memory.ofBytes (k + 1) bs

/-- The `n` bytes from offset `k` upward, unlisted ones read from `free`: one pass over rising cells. It gives what
`Memory.lookup` gives at each offset (Laws/Memory.lean). -/
def Memory.bytesFrom (free : Nat → Byte) : Memory → Nat → Nat → List Byte
  | _, _, 0 => []
  | [], k, n + 1 => free k :: Memory.bytesFrom free [] (k + 1) n
  | (a, b) :: m, k, n + 1 =>
    if a = k then b :: Memory.bytesFrom free m (k + 1) n
    else (Memory.lookup m k).getD (free k) :: Memory.bytesFrom free ((a, b) :: m) (k + 1) n

/-- `BUF[k]`: the byte written there since the reset, else the reset's free value (70_reset_and_hazards.md R231). -/
def State.bufByte (s : State) (k : Nat) : Byte :=
  (Memory.lookup s.buf k).getD (Config.resetByte s.resets k)

/-- `BUF[off..off+n)`. -/
def State.bytes (s : State) (off n : Nat) : List Byte :=
  Memory.bytesFrom (Config.resetByte s.resets) (s.buf.dropWhile (fun c => decide (c.1 < off))) off n

/-- `BufRead(off, n)` for `n` in 1, 2, 4, zero-extended to a word (20_memory.md R55). -/
def State.bufRead (s : State) (off n : Nat) : Word := leWord (s.bytes off n)

/-- `BufWrite(off, n, v)` of the low `n` bytes of `v` (20_memory.md R55). -/
def State.bufWrite (s : State) (off n : Nat) (v : Word) : State :=
  { s with buf := Memory.writeBytes s.buf off (leBytes n v) }

/-- `R[RESULT] <- v` (10_state.md R30). -/
def State.setResult (s : State) (v : Word) : State := { s with result := v }

/-- The six HDR registers written together (10_state.md R31). -/
def State.setHdr (s : State) (h : Header) : State := { s with hdr := h }

/-- `raise E(info)` (60_exceptions.md R203): the error code and the information word, and nothing else (R201). -/
def State.raise (s : State) (e : ErrCode) (info : Word) : State := { s with errcode := e, errinfo := info }

/-- A write of `c` to CMD while the block is idle (10_state.md R24). -/
def State.issue (s : State) (c : Word) : State :=
  { s with cmd := c, pending := some c, done := false, errcode := .noError }

/-- `pending <- none`, the first act of an engine step (10_state.md R33). -/
def State.unlatch (s : State) : State := { s with pending := none }

/-- `complete` (10_state.md R34). -/
def State.complete (s : State) : State := { s with done := true }

/-- The order in which the fault set is listed: by kind, then offset, then width. -/
def HostFault.key : HostFault → Nat × Nat × Nat
  | .busMisaligned a n => (0, a, n)
  | .busUnmapped a => (1, a, 0)
  | .busReadonly a => (2, a, 0)
  | .writeWhileBusy a => (3, a, 0)

/-- `f` stands before `g` in the fault set's listing. -/
def HostFault.before (f g : HostFault) : Bool :=
  decide (f.key.1 < g.key.1) || (f.key.1 == g.key.1 &&
    (decide (f.key.2.1 < g.key.2.1) || (f.key.2.1 == g.key.2.1 && decide (f.key.2.2 < g.key.2.2))))

/-- Add a fault to the fault set (60_exceptions.md R210): a set, so a fault recorded twice is listed once (log 9). -/
def recordFault (f : HostFault) : List HostFault → List HostFault
  | [] => [f]
  | g :: gs =>
    if f = g then g :: gs
    else if f.before g then f :: g :: gs
    else g :: recordFault f gs

/-- Add several faults. -/
def recordFaults : List HostFault → List HostFault → List HostFault
  | [], gs => gs
  | f :: fs, gs => recordFaults fs (recordFault f gs)

/-- The fault set is listed in strictly rising order. -/
def faultsOrdered : List HostFault → Bool
  | [] => true
  | f :: gs => gs.all (fun g => f.before g) && faultsOrdered gs

/-- The reset signal (70_reset_and_hazards.md R230 to R232): registers to their reset values, a pending command
discarded, BUF drawn anew, the fault set kept. The environment's fields stay. -/
def State.resetBlock (s : State) : State :=
  { State.reset with
    faults := s.faults, inbox := s.inbox, reply := s.reply, resets := s.resets + 1, draws := s.draws }

end Sys2Proof.Machine
end

