-- ==== Sys2Proof/Machine/Operands.lean ====
section
/-! DEFINITION. The operand forms of 30_encoding.md R83 and what they select: header fields of BUF by SEL (R85), the
page-type byte of ARG0 and the tag set (40_pagetype.md R100, R101), the length in LEN (10_state.md R28), the packed and
unpacked header (41_header.md R120, R121). -/

namespace Sys2Proof.Machine

/-- `DEFAULT_PAGE_TYPE` (00_scope.md R9, 41_header.md R121): TableMetadata (log 13). -/
def defaultPageType : Byte := 0x02

/-- The byte offset column of 30_encoding.md R85. -/
def fieldOffset : HdrField → Nat
  | .pageId => 0
  | .pageType => 4
  | .flags => 5
  | .freeSpace => 6
  | .checksum => 8
  | .lsn => 12

/-- The width column of 30_encoding.md R85, in bytes. -/
def fieldWidth : HdrField → Nat
  | .pageId => 4
  | .pageType => 1
  | .flags => 1
  | .freeSpace => 2
  | .checksum => 4
  | .lsn => 4

/-- A header field of BUF, zero-extended (41_header.md R129). -/
def State.field (s : State) (f : HdrField) : Word := s.bufRead (fieldOffset f) (fieldWidth f)

/-- A header field of BUF written with the low bits of `v` (41_header.md R130). -/
def State.setField (s : State) (f : HdrField) (v : Word) : State :=
  s.bufWrite (fieldOffset f) (fieldWidth f) v

/-- `ARG0[7:0]` (30_encoding.md R83). -/
def State.tagArg (s : State) : Byte := s.arg0.setWidth 8

/-- `ValidTag(b)` (40_pagetype.md R101). -/
def validTag (b : Byte) : Bool := decide (0x01 ≤ b.toNat) && decide (b.toNat ≤ 0x09)

/-- LEN as a number of bytes. -/
def State.length (s : State) : Nat := s.len.toNat

/-- The default header (41_header.md R121). -/
def Header.default : Header where
  pageId := 0
  pageType := defaultPageType
  flags := 0
  freeSpace := BitVec.ofNat 16 Config.pageUsableSize
  checksum := 0
  lsn := 0

/-- HDR_PACK's six writes (41_header.md R126). -/
def State.packHeader (s : State) (h : Header) : State :=
  (((((s.setField .pageId h.pageId).setField .pageType (h.pageType.setWidth 32)).setField .flags
    (h.flags.setWidth 32)).setField .freeSpace (h.freeSpace.setWidth 32)).setField .checksum
    h.checksum).setField .lsn h.lsn

/-- HDR_UNPACK's six reads (41_header.md R127). -/
def State.unpackHeader (s : State) : Header where
  pageId := s.field .pageId
  pageType := (s.field .pageType).setWidth 8
  flags := (s.field .flags).setWidth 8
  freeSpace := (s.field .freeSpace).setWidth 16
  checksum := s.field .checksum
  lsn := s.field .lsn

end Sys2Proof.Machine
end

