-- ==== Sys2Proof/Machine/Crc.lean ====
section
/-! DEFINITION. The CRC-32 function of 42_checksum.md R152 and the page checksum of R155. -/

namespace Sys2Proof.Machine

/-- The generator polynomial, bit-reversed (42_checksum.md R152; log 14). -/
def crcPoly : Word := 0xEDB88320

/-- The initial value and the final XOR (42_checksum.md R152). -/
def crcOnes : Word := 0xFFFFFFFF

/-- One of the eight rounds per byte (42_checksum.md R152). -/
def crcBit (crc : Word) : Word :=
  if crc.getLsbD 0 then (crc >>> 1) ^^^ crcPoly else crc >>> 1

/-- `n` rounds. -/
def crcBits : Nat → Word → Word
  | 0, crc => crc
  | n + 1, crc => crcBits n (crcBit crc)

/-- One byte taken in (42_checksum.md R152). -/
def crcByte (crc : Word) (b : Byte) : Word := crcBits 8 (crc ^^^ b.setWidth 32)

/-- `f c`, the value of `c` settled first: it keeps a long CRC within reach of the kernel's evaluation and says
nothing else (`settled_eq` in Laws/Crc.lean). -/
def settled {α : Type} (c : Word) (f : Word → α) : α :=
  match c.toNat with
  | 0 => f 0
  | n + 1 => f (BitVec.ofNat 32 (n + 1))

/-- `CRCupd(s, m)` (42_checksum.md R158): the loop of R152 from the state `s`, without the final XOR. -/
def crcUpd : Word → List Byte → Word
  | crc, [] => crc
  | crc, b :: m => settled (crcByte crc b) (fun c => crcUpd c m)

/-- `CRC32(m)` (42_checksum.md R152). -/
def crc32 (m : List Byte) : Word := crcUpd crcOnes m ^^^ crcOnes

/-- `PageChecksum(BUF)` (42_checksum.md R155): one CRC over the page less the exclusion window (log 15). -/
def State.pageChecksum (s : State) : Word :=
  crc32 (s.bytes 0 Config.checksumOffset ++
    s.bytes (Config.checksumOffset + Config.checksumWidth)
      (Config.pageSize - (Config.checksumOffset + Config.checksumWidth)))

/-- The stored checksum, `BufRead(8, 4)` (43_page.md R172). -/
def State.storedChecksum (s : State) : Word := s.bufRead Config.checksumOffset Config.checksumWidth

/-- `LEN = PAGE_SIZE` (42_checksum.md R156). -/
def State.wholePage (s : State) : Bool := s.length == Config.pageSize

/-- `verify_checksum()` (43_page.md R172): false when LEN is not a whole page. -/
def State.verified (s : State) : Bool := s.wholePage && s.storedChecksum == s.pageChecksum

end Sys2Proof.Machine
end

