-- ==== Sys2Proof/Machine/Checksum.lean ====
section
/-! DEFINITION. The checksum commands CRC32 and PCSUM (42_checksum.md R153 to R156). -/

namespace Sys2Proof.Machine

/-- CRC32 (42_checksum.md R153, R154). -/
def execCrc32 (s : State) : Host.Outcome State Fault Refusal :=
  if s.length > Config.bufCap then .next (s.raise .lengthRange s.len)
  else .next (s.setResult (crc32 (s.bytes 0 s.length)))

/-- PCSUM (42_checksum.md R156). -/
def execPcsum (s : State) : Host.Outcome State Fault Refusal :=
  if s.wholePage then .next (s.setResult s.pageChecksum)
  else .next (s.raise .invalidInput s.len)

end Sys2Proof.Machine
end

