-- ==== Sys2Proof/Machine/Header.lean ====
section
/-! DEFINITION. The header packer and unpacker: whole-header commands (41_header.md R124 to R127), the field commands
FLD_GET and FLD_SET (R129, R130) and the flag commands (R132 to R135). No field is checked (R128). -/

namespace Sys2Proof.Machine

/-- HDR_DEFAULT (41_header.md R124). -/
def execHdrDefault (s : State) : Host.Outcome State Fault Refusal :=
  .next (s.setHdr Header.default)

/-- HDR_NEW (41_header.md R125). -/
def execHdrNew (s : State) : Host.Outcome State Fault Refusal :=
  if validTag s.tagArg then
    .next (s.setHdr { Header.default with pageType := s.tagArg, pageId := s.arg1 })
  else .next (s.raise .invalidPageType (s.tagArg.setWidth 32))

/-- HDR_PACK (41_header.md R126). -/
def execHdrPack (s : State) : Host.Outcome State Fault Refusal :=
  .next (s.packHeader s.hdr)

/-- HDR_UNPACK (41_header.md R127). -/
def execHdrUnpack (s : State) : Host.Outcome State Fault Refusal :=
  .next (s.setHdr s.unpackHeader)

/-- FLD_GET of one field (41_header.md R129), shared by its six rows. -/
def fldGetOp (f : HdrField) (s : State) : Host.Outcome State Fault Refusal :=
  .next (s.setResult (s.field f))

/-- FLD_SET of one field (41_header.md R130), shared by its six rows. -/
def fldSetOp (f : HdrField) (s : State) : Host.Outcome State Fault Refusal :=
  .next (s.setField f s.arg0)

/-- FLD_GET.page_id (41_header.md R129). -/
def execFldGetPageId (s : State) : Host.Outcome State Fault Refusal := fldGetOp .pageId s

/-- FLD_GET.page_type (41_header.md R129). -/
def execFldGetPageType (s : State) : Host.Outcome State Fault Refusal := fldGetOp .pageType s

/-- FLD_GET.flags (41_header.md R129). -/
def execFldGetFlags (s : State) : Host.Outcome State Fault Refusal := fldGetOp .flags s

/-- FLD_GET.free_space (41_header.md R129). -/
def execFldGetFreeSpace (s : State) : Host.Outcome State Fault Refusal := fldGetOp .freeSpace s

/-- FLD_GET.checksum (41_header.md R129). -/
def execFldGetChecksum (s : State) : Host.Outcome State Fault Refusal := fldGetOp .checksum s

/-- FLD_GET.lsn (41_header.md R129). -/
def execFldGetLsn (s : State) : Host.Outcome State Fault Refusal := fldGetOp .lsn s

/-- FLD_SET.page_id (41_header.md R130). -/
def execFldSetPageId (s : State) : Host.Outcome State Fault Refusal := fldSetOp .pageId s

/-- FLD_SET.page_type (41_header.md R130). -/
def execFldSetPageType (s : State) : Host.Outcome State Fault Refusal := fldSetOp .pageType s

/-- FLD_SET.flags (41_header.md R130). -/
def execFldSetFlags (s : State) : Host.Outcome State Fault Refusal := fldSetOp .flags s

/-- FLD_SET.free_space (41_header.md R130). -/
def execFldSetFreeSpace (s : State) : Host.Outcome State Fault Refusal := fldSetOp .freeSpace s

/-- FLD_SET.checksum (41_header.md R130). -/
def execFldSetChecksum (s : State) : Host.Outcome State Fault Refusal := fldSetOp .checksum s

/-- FLD_SET.lsn (41_header.md R130). -/
def execFldSetLsn (s : State) : Host.Outcome State Fault Refusal := fldSetOp .lsn s

/-- GET_DIRTY (41_header.md R132). -/
def execGetDirty (s : State) : Host.Outcome State Fault Refusal :=
  .next (s.setResult (boolWord (dirtyBit (s.bufByte 5))))

/-- SET_DIRTY v (41_header.md R133). -/
def execSetDirty (v : Bool) (s : State) : Host.Outcome State Fault Refusal :=
  .next (s.bufWrite 5 1 ((withDirty (s.bufByte 5) v).setWidth 32))

/-- GET_PINNED (41_header.md R134). -/
def execGetPinned (s : State) : Host.Outcome State Fault Refusal :=
  .next (s.setResult (boolWord (pinnedBit (s.bufByte 5))))

/-- SET_PINNED v (41_header.md R135). -/
def execSetPinned (v : Bool) (s : State) : Host.Outcome State Fault Refusal :=
  .next (s.bufWrite 5 1 ((withPinned (s.bufByte 5) v).setWidth 32))

end Sys2Proof.Machine
end

