-- ==== Sys2Proof/Machine/Page.lean ====
section
/-! DEFINITION. The page commands CALC, VERIFY, ISCORR and PAGE_NEW (43_page.md R170 to R173). -/

namespace Sys2Proof.Machine

/-- CALC (43_page.md R171). -/
def execCalcChecksum (s : State) : Host.Outcome State Fault Refusal :=
  if s.wholePage then
    .next ((s.bufWrite Config.checksumOffset Config.checksumWidth s.pageChecksum).setResult s.pageChecksum)
  else .next (s.raise .invalidInput s.len)

/-- VERIFY (43_page.md R172): fail-closed, never an error. -/
def execVerify (s : State) : Host.Outcome State Fault Refusal :=
  .next (s.setResult (boolWord s.verified))

/-- ISCORR (43_page.md R173). -/
def execIscorr (s : State) : Host.Outcome State Fault Refusal :=
  .next (s.setResult (boolWord (!s.verified)))

/-- The cells of a BUF whose every byte was written 0. Irreducible: elaboration never lists the 4096 cells. -/
@[irreducible] def zeroPage : Memory := Memory.ofBytes 0 (List.replicate Config.bufCap 0)

/-- BUF with every byte written 0 (43_page.md R170). -/
def State.zeroBuf (s : State) : State := { s with buf := zeroPage }

/-- PAGE_NEW (43_page.md R170). -/
def execPageNew (s : State) : Host.Outcome State Fault Refusal :=
  .next ((s.zeroBuf.bufWrite 4 1 (defaultPageType.setWidth 32)).bufWrite 6 2
    (BitVec.ofNat 32 Config.pageUsableSize))

end Sys2Proof.Machine
end

