-- ==== Sys2Proof/Machine/PageType.lean ====
section
/-! DEFINITION. The page-type tag commands: TYPE_DECODE and the five class predicates (40_pagetype.md R102 to R108). -/

namespace Sys2Proof.Machine

/-- What TYPE_DECODE and the predicates share: an invalid byte is the error, a valid one gives `v` (40_pagetype.md
R102, R103). -/
def onValidTag (v : Byte → Word) (s : State) : Host.Outcome State Fault Refusal :=
  if validTag s.tagArg then .next (s.setResult (v s.tagArg))
  else .next (s.raise .invalidPageType (s.tagArg.setWidth 32))

/-- `Predicate(b, class)` (40_pagetype.md R103). -/
def predicateOp (cls : List Byte) (s : State) : Host.Outcome State Fault Refusal :=
  onValidTag (fun b => boolWord (cls.contains b)) s

/-- TYPE_DECODE (40_pagetype.md R102). -/
def execTypeDecode (s : State) : Host.Outcome State Fault Refusal :=
  onValidTag (fun b => b.setWidth 32) s

/-- IS_BTREE (40_pagetype.md R104). -/
def execIsBtree (s : State) : Host.Outcome State Fault Refusal := predicateOp [0x04, 0x05] s

/-- IS_FREELIST (40_pagetype.md R105). -/
def execIsFreelist (s : State) : Host.Outcome State Fault Refusal := predicateOp [0x08] s

/-- IS_OVERFLOW (40_pagetype.md R106). -/
def execIsOverflow (s : State) : Host.Outcome State Fault Refusal := predicateOp [0x07] s

/-- IS_DATA (40_pagetype.md R107). -/
def execIsData (s : State) : Host.Outcome State Fault Refusal := predicateOp [0x03] s

/-- IS_META (40_pagetype.md R108). -/
def execIsMeta (s : State) : Host.Outcome State Fault Refusal := predicateOp [0x01, 0x02] s

end Sys2Proof.Machine
end

