-- ==== Sys2Proof/Machine/Dispatch.lean ====
section
/-! DEFINITION. `Perform(op, fields)` of 10_state.md R33: one arm per command. What an engine step does around it
stands in Machine/Engine.lean. -/

namespace Sys2Proof.Machine

def exec (i : Instr) (s : State) : Host.Outcome State Fault Refusal :=
  match i with
  | .crc32 => Sys2Proof.Machine.execCrc32 s
  | .pcsum => Sys2Proof.Machine.execPcsum s
  | .calcChecksum => Sys2Proof.Machine.execCalcChecksum s
  | .verify => Sys2Proof.Machine.execVerify s
  | .iscorr => Sys2Proof.Machine.execIscorr s
  | .pageNew => Sys2Proof.Machine.execPageNew s
  | .hdrDefault => Sys2Proof.Machine.execHdrDefault s
  | .hdrNew => Sys2Proof.Machine.execHdrNew s
  | .hdrPack => Sys2Proof.Machine.execHdrPack s
  | .hdrUnpack => Sys2Proof.Machine.execHdrUnpack s
  | .fldGetPageId => Sys2Proof.Machine.execFldGetPageId s
  | .fldGetPageType => Sys2Proof.Machine.execFldGetPageType s
  | .fldGetFlags => Sys2Proof.Machine.execFldGetFlags s
  | .fldGetFreeSpace => Sys2Proof.Machine.execFldGetFreeSpace s
  | .fldGetChecksum => Sys2Proof.Machine.execFldGetChecksum s
  | .fldGetLsn => Sys2Proof.Machine.execFldGetLsn s
  | .fldSetPageId => Sys2Proof.Machine.execFldSetPageId s
  | .fldSetPageType => Sys2Proof.Machine.execFldSetPageType s
  | .fldSetFlags => Sys2Proof.Machine.execFldSetFlags s
  | .fldSetFreeSpace => Sys2Proof.Machine.execFldSetFreeSpace s
  | .fldSetChecksum => Sys2Proof.Machine.execFldSetChecksum s
  | .fldSetLsn => Sys2Proof.Machine.execFldSetLsn s
  | .getDirty => Sys2Proof.Machine.execGetDirty s
  | .setDirty v => Sys2Proof.Machine.execSetDirty v s
  | .getPinned => Sys2Proof.Machine.execGetPinned s
  | .setPinned v => Sys2Proof.Machine.execSetPinned v s
  | .typeDecode => Sys2Proof.Machine.execTypeDecode s
  | .isBtree => Sys2Proof.Machine.execIsBtree s
  | .isFreelist => Sys2Proof.Machine.execIsFreelist s
  | .isOverflow => Sys2Proof.Machine.execIsOverflow s
  | .isData => Sys2Proof.Machine.execIsData s
  | .isMeta => Sys2Proof.Machine.execIsMeta s

end Sys2Proof.Machine
end

