-- ==== Sys2Proof/Machine/Engine.lean ====
section
/-! DEFINITION. The engine step (10_state.md R33): the latch is emptied, the word decoded, the command performed or
ILLEGAL_COMMAND raised, and `complete` run in either case. -/

namespace Sys2Proof.Machine

/-- `complete` after a command that answered a next state. -/
def thenComplete (o : Host.Outcome State Fault Refusal) : Host.Outcome State Fault Refusal :=
  match o with
  | .next t => .next t.complete
  | .fault r => .fault r
  | .refused r => .refused r

/-- `EngineStep(c)` (10_state.md R33) on the state in which the latch still holds `c`. -/
def perform (c : Word) (s : State) : Host.Outcome State Fault Refusal :=
  match decode c with
  | .ok i => thenComplete (exec i s.unlatch)
  | .error _ => .next (s.unlatch.raise .illegalCommand c).complete

/-- The engine's turn: it has a step exactly when a command is pending (10_state.md R33); without one nothing happens
(log 6). -/
def engineStep (s : State) : Host.Outcome State Fault Refusal :=
  match s.pending with
  | some c => perform c s
  | none => .next s

end Sys2Proof.Machine
end

