-- ==== Sys2Proof/Machine/HostPort.lean ====
section
/-! DEFINITION. The host port: the register map (10_state.md R21), which accesses are admitted and what the others
record (20_memory.md R60 to R66, 60_exceptions.md R210, R211), the busy window (70_reset_and_hazards.md R241, R242), and
one event of the environment. -/

namespace Sys2Proof.Machine

/-- The offset column of 10_state.md R21. -/
def Reg.offset : Reg → Nat
  | .caps => 0x000
  | .bufcap => 0x004
  | .cmd => 0x008
  | .status => 0x00C
  | .errinfo => 0x010
  | .len => 0x014
  | .arg0 => 0x018
  | .arg1 => 0x01C
  | .result => 0x020
  | .hdrPageId => 0x024
  | .hdrType => 0x028
  | .hdrFlags => 0x02C
  | .hdrFree => 0x030
  | .hdrCksum => 0x034
  | .hdrLsn => 0x038

/-- The register at an offset; 0x03C to 0x0FFF hold none (10_state.md R21). -/
def Reg.ofOffset (a : Nat) : Option Reg :=
  match a with
  | 0x000 => some .caps
  | 0x004 => some .bufcap
  | 0x008 => some .cmd
  | 0x00C => some .status
  | 0x010 => some .errinfo
  | 0x014 => some .len
  | 0x018 => some .arg0
  | 0x01C => some .arg1
  | 0x020 => some .result
  | 0x024 => some .hdrPageId
  | 0x028 => some .hdrType
  | 0x02C => some .hdrFlags
  | 0x030 => some .hdrFree
  | 0x034 => some .hdrCksum
  | 0x038 => some .hdrLsn
  | _ => none

/-- The registers whose access is RO (10_state.md R21, 20_memory.md R62). -/
def Reg.readOnly : Reg → Bool
  | .caps | .bufcap | .status | .errinfo | .result => true
  | _ => false

/-- The width column of 10_state.md R21, in bits. -/
def Reg.width : Reg → Nat
  | .hdrType | .hdrFlags => 8
  | .hdrFree => 16
  | _ => 32

/-- The registers whose reads in flight are undefined (70_reset_and_hazards.md R242). -/
def Reg.openInFlight : Reg → Bool
  | .result | .errinfo | .hdrPageId | .hdrType | .hdrFlags | .hdrFree | .hdrCksum | .hdrLsn => true
  | _ => false

/-- The value of a register (20_memory.md R61): CAPS and BUFCAP are hard-wired (10_state.md R22, R23), the bits above
a register's width read 0. -/
def State.readReg (s : State) : Reg → Word
  | .caps => BitVec.ofNat 32 Config.pageSize
  | .bufcap => BitVec.ofNat 32 Config.bufCap
  | .cmd => s.cmd
  | .status => s.status
  | .errinfo => s.errinfo
  | .len => s.len
  | .arg0 => s.arg0
  | .arg1 => s.arg1
  | .result => s.result
  | .hdrPageId => s.hdr.pageId
  | .hdrType => s.hdr.pageType.setWidth 32
  | .hdrFlags => s.hdr.flags.setWidth 32
  | .hdrFree => s.hdr.freeSpace.setWidth 32
  | .hdrCksum => s.hdr.checksum
  | .hdrLsn => s.hdr.lsn

/-- A write to a register while idle (20_memory.md R62): CMD issues a command, an RW register keeps the low bits of
its width, an RO register keeps its value. -/
def State.writeReg (s : State) (r : Reg) (v : Word) : State :=
  match r with
  | .cmd => s.issue v
  | .len => { s with len := v }
  | .arg0 => { s with arg0 := v }
  | .arg1 => { s with arg1 := v }
  | .hdrPageId => s.setHdr { s.hdr with pageId := v }
  | .hdrType => s.setHdr { s.hdr with pageType := v.setWidth 8 }
  | .hdrFlags => s.setHdr { s.hdr with flags := v.setWidth 8 }
  | .hdrFree => s.setHdr { s.hdr with freeSpace := v.setWidth 16 }
  | .hdrCksum => s.setHdr { s.hdr with checksum := v }
  | .hdrLsn => s.setHdr { s.hdr with lsn := v }
  | .caps | .bufcap | .status | .errinfo | .result => s

/-- Is the access a write? -/
def Dir.isWrite : Dir → Bool
  | .read => false
  | .write _ => true

/-- The fault the map itself gives an access (20_memory.md R62, R65, R66), its offset inside the window. -/
def mapFault (a : Access) : Option HostFault :=
  if a.addr < Config.bufWindow then
    if a.width ≠ 4 ∨ a.addr % 4 ≠ 0 then some (.busMisaligned a.addr a.width)
    else match Reg.ofOffset a.addr with
      | none => some (.busUnmapped a.addr)
      | some r => if a.dir.isWrite && r.readOnly then some (.busReadonly a.addr) else none
  else if (a.width = 1 ∨ a.width = 2 ∨ a.width = 4) ∧ a.addr % a.width = 0 then none
  else some (.busMisaligned a.addr a.width)

/-- Every fault an access records: the map's, and WRITE_WHILE_BUSY for any write while a command is pending
(70_reset_and_hazards.md R241). Where both rules apply, both are recorded (log 10). -/
def accessFaults (s : State) (a : Access) : List HostFault :=
  (mapFault a).toList ++ (if a.dir.isWrite && s.busy then [.writeWhileBusy a.addr] else [])

/-- The low `bits` bits of a word. -/
def lowBits (bits : Nat) (v : Word) : Word := v &&& BitVec.ofNat 32 (2 ^ bits - 1)

/-- The answer to a read: exact, or for what the busy window leaves undefined a fresh free value of the width read
(70_reset_and_hazards.md R242, log 4). -/
def answerRead (s : State) (undefined : Bool) (bits : Nat) (v : Word) : State :=
  if undefined && s.busy then
    { s with reply := some (.data (lowBits bits (Config.freeRead s.draws))), draws := s.draws + 1 }
  else { s with reply := some (.data v) }

/-- An admitted access to a register (20_memory.md R61, R62). -/
def regAccess (s : State) (r : Reg) (d : Dir) : State :=
  match d with
  | .read => answerRead s r.openInFlight r.width (s.readReg r)
  | .write v => { s.writeReg r v with reply := some .written }

/-- An admitted access of `n` bytes at BUF offset `k` (20_memory.md R63, R64). -/
def bufAccess (s : State) (k n : Nat) (d : Dir) : State :=
  match d with
  | .read => answerRead s true (8 * n) (s.bufRead k n)
  | .write v => { s.bufWrite k n v with reply := some .written }

/-- An access that records no fault. -/
def admittedAccess (s : State) (a : Access) : State :=
  if a.addr < Config.bufWindow then
    match Reg.ofOffset a.addr with
    | some r => regAccess s r a.dir
    | none => s
  else bufAccess s (a.addr - Config.bufWindow) a.width a.dir

/-- A host access at a window offset: admitted, or recorded with no effect on any other state of the block and
answered by a bus error (60_exceptions.md R210); outside the window it is not the block's (20_memory.md R66). -/
def hostAccess (s : State) (a : Access) : Host.Outcome State Fault Refusal :=
  if a.addr < Config.windowSize then
    match accessFaults s a with
    | [] => .next (admittedAccess s a)
    | f :: fs => .next { s with faults := recordFaults (f :: fs) s.faults, reply := some .busError }
  else .refused (.outsideWindow a.addr)

/-- The window offset of a bus address, if the block's window holds it (20_memory.md R50). -/
def windowOffset (addr : Nat) : Option Nat :=
  if Config.base ≤ addr ∧ addr < Config.base + Config.windowSize then some (addr - Config.base) else none

/-- One event of the environment, already taken from the inbox (00_scope.md R8, 70_reset_and_hazards.md R230). -/
def handleEvent (s : State) (e : Event) : Host.Outcome State Fault Refusal :=
  match e with
  | .host a => hostAccess s a
  | .bus a =>
    match windowOffset a.addr with
    | some off => hostAccess s { a with addr := off }
    | none => .refused (.outsideWindow a.addr)
  | .engine => engineStep s
  | .reset => .next s.resetBlock

/-- One step: the next event of the environment, or the engine's turn when the environment has none left
(70_reset_and_hazards.md R250: a pending command is performed in the end; log 5). -/
def nextStep (s : State) : Host.Outcome State Fault Refusal :=
  match s.inbox with
  | e :: rest => handleEvent { s with inbox := rest } e
  | [] => engineStep s

/-- The state in which the engine's turn is next and the latch holds the word `w`, as a CMD write leaves it. -/
def latchWord (s : State) (w : Word) : State := { s.issue w with inbox := [] }

end Sys2Proof.Machine
end

