-- ==== Sys2Proof/Machine/Step.lean ====
section
/-! DEFINITION. The step of the machine and how the host places a command for it. -/

namespace Sys2Proof.Machine

/-- One step of the machine (00_scope.md R8): see `nextStep`. -/
def step (s : State) : Host.Outcome State Fault Refusal := nextStep s

/-- The state `s` with an opcode-table word latched as the host's CMD write latches it, so that the very next step
performs it (10_state.md R24, R33; log 8). -/
def State.withFetchWord (s : State) (nbits w : Nat) : State :=
  latchWord s (BitVec.ofNat 32 (w % 2 ^ nbits))

end Sys2Proof.Machine
end

