-- ==== Sys2Proof/Machine/HostSyntax.lean ====
section
/-! DEFINITION. The host-program lines of 30_encoding.md R89 and the pseudo-instructions of R90, as lists of events. -/

namespace Sys2Proof.Machine

/-- `W32 REG, v`. -/
def w32 (r : Reg) (v : Word) : Event := .host { addr := r.offset, width := 4, dir := .write v }

/-- `RD32 REG`. -/
def rd32 (r : Reg) : Event := .host { addr := r.offset, width := 4, dir := .read }

/-- `W8`, `W16`, `W32 BUF+k, v` with `n` = 1, 2, 4. -/
def wBuf (n k : Nat) (v : Word) : Event := .host { addr := Config.bufWindow + k, width := n, dir := .write v }

/-- `RD8`, `RD16`, `RD32 BUF+k` with `n` = 1, 2, 4. -/
def rdBuf (n k : Nat) : Event := .host { addr := Config.bufWindow + k, width := n, dir := .read }

/-- `Wn @a, v`: `n` bytes at a raw window offset. -/
def wRaw (n a : Nat) (v : Word) : Event := .host { addr := a, width := n, dir := .write v }

/-- `RDn @a`: `n` bytes at a raw window offset. -/
def rdRaw (n a : Nat) : Event := .host { addr := a, width := n, dir := .read }

/-- `POLL`: `k` STATUS reads that still see BUSY, the engine's step, and the read that ends the loop. -/
def poll (k : Nat) : List Event := List.replicate k (rd32 .status) ++ [.engine, rd32 .status]

/-- `RUN <command>`: the CMD write and `POLL`. -/
def runCmd (i : Instr) (k : Nat) : List Event := w32 .cmd (encode i) :: poll k

/-- `CHECK_OK` on the answer to a STATUS read: DONE and no error. -/
def checkOk (r : Option Reply) : Bool := r == some (.data 0x00000002)

/-- `CHECK_ERR e` on the answer to a STATUS read. -/
def checkErr (e : ErrCode) (r : Option Reply) : Bool :=
  r == some (.data (0x00000006 ||| (e.code.setWidth 32 <<< 8)))

end Sys2Proof.Machine
end

