-- ==== Sys2Proof/Safety.lean ====
section
/-! DEFINITION. What claims about this machine are stated in: the invariant of the reachable states, and the launch
premises of 70_reset_and_hazards.md R253. -/

namespace Sys2Proof.Machine

/-- The buffer's cells and the fault set are in canonical form (log 2, 9). -/
def State.Canonical (s : State) : Prop := Memory.wf s.buf = true ∧ faultsOrdered s.faults = true

/-- While a command is in flight, CMD reads it back, DONE is clear and no error stands (10_state.md R24, R32). -/
def State.LatchClean (s : State) : Prop :=
  ∀ c, s.pending = some c → s.cmd = c ∧ s.done = false ∧ s.errcode = .noError

/-- A word that decodes to a command. -/
def decodesTo (c : Word) (i : Instr) : Bool :=
  match decode c with
  | .ok j => j == i
  | .error _ => false

/-- The commands that raise INVALID_PAGE_TYPE (60_exceptions.md R200). -/
def tagCommands : List Instr :=
  [.typeDecode, .isBtree, .isFreelist, .isOverflow, .isData, .isMeta, .hdrNew]

/-- The error code, the information word and the last command agree (60_exceptions.md R200): each code stands only
after a completed command that raises it, with the information word that row gives. -/
def State.ErrorExplained (s : State) : Prop :=
  match s.errcode with
  | .noError => True
  | .invalidInput => s.done = true ∧ s.errinfo.toNat ≠ Config.pageSize ∧
      (decodesTo s.cmd .pcsum || decodesTo s.cmd .calcChecksum) = true
  | .invalidPageType => s.done = true ∧ (s.errinfo = 0 ∨ 9 < s.errinfo.toNat) ∧ s.errinfo.toNat < 256 ∧
      tagCommands.any (decodesTo s.cmd) = true
  | .illegalCommand => s.done = true ∧ s.errinfo = s.cmd ∧ (CmdFields.ofWord s.cmd).wellFormed = false
  | .lengthRange => s.done = true ∧ Config.bufCap < s.errinfo.toNat ∧ decodesTo s.cmd .crc32 = true

/-- The invariant of the machine. -/
def State.Inv (s : State) : Prop := s.Canonical ∧ s.LatchClean ∧ s.ErrorExplained

/-- Idle and without a recorded fault (70_reset_and_hazards.md R253, premises 1 and 2). -/
def State.Launch (s : State) : Prop := s.faults = [] ∧ s.pending = none

/-- The engine has the next step, with `rest` left to the environment: its turn is listed, or nothing else is. -/
def EngineTurn (s : State) (rest : List Event) : Prop :=
  (s.inbox = [] ∧ rest = []) ∨ s.inbox = .engine :: rest

/-- An event that reaches the block: any but an access outside its window (20_memory.md R66). -/
def Event.InWindow : Event → Prop
  | .host a => a.addr < Config.windowSize
  | .bus a => Config.base ≤ a.addr ∧ a.addr < Config.base + Config.windowSize
  | .engine => True
  | .reset => True

/-- The little-endian number held in the `n` bytes of BUF from `k` (20_memory.md R55), said in Nat. -/
def State.bufNat (s : State) (k n : Nat) : Nat :=
  ((List.range n).map fun i => (s.bufByte (k + i)).toNat * 256 ^ i).sum

/-- The state after a command that stored the low `n` bytes of `v` at BUF offset `off` and wrote nothing else: every
other byte of BUF reads as before. -/
def StoresOnly (s t : State) (off n : Nat) (v : Word) : Prop :=
  t = { s with buf := t.buf } ∧
  ∀ k, t.bufByte k =
    if off ≤ k ∧ k < off + n then BitVec.ofNat 8 (v.toNat / 256 ^ (k - off)) else s.bufByte k

/-- The faults a host access records (20_memory.md R62, R65, R66, 70_reset_and_hazards.md R241), by the spec's numbers. -/
def Records (s : State) (a : Access) (f : HostFault) : Prop :=
  (f = .busMisaligned a.addr a.width ∧
    ((a.addr < 0x1000 ∧ (a.width ≠ 4 ∨ a.addr % 4 ≠ 0)) ∨
     (0x1000 ≤ a.addr ∧ ((a.width ≠ 1 ∧ a.width ≠ 2 ∧ a.width ≠ 4) ∨ a.addr % a.width ≠ 0)))) ∨
  (f = .busUnmapped a.addr ∧ a.width = 4 ∧ a.addr % 4 = 0 ∧ 0x03C ≤ a.addr ∧ a.addr < 0x1000) ∨
  (f = .busReadonly a.addr ∧ a.dir ≠ .read ∧ a.width = 4 ∧ a.addr ∈ [0x000, 0x004, 0x00C, 0x010, 0x020]) ∨
  (f = .writeWhileBusy a.addr ∧ a.dir ≠ .read ∧ s.pending ≠ none)

/-- The numbers of 60_exceptions.md R200. -/
def errNumber : ErrCode → Nat
  | .noError => 0
  | .invalidInput => 1
  | .invalidPageType => 2
  | .illegalCommand => 3
  | .lengthRange => 4

/-- What STATUS reads, as the sum of its fields (10_state.md R25, R35). -/
def statusNumber (s : State) : Nat :=
  (if s.pending = none then 0 else 1) + (if s.done then 2 else 0) + (if errNumber s.errcode = 0 then 0 else 4) +
    256 * errNumber s.errcode

/-- What each register reads, by offset (10_state.md R21 to R31). -/
def registerTable (s : State) : List (Nat × Nat) :=
  [(0x000, 0x1000), (0x004, 0x1000), (0x008, s.cmd.toNat), (0x00C, statusNumber s), (0x010, s.errinfo.toNat),
   (0x014, s.len.toNat), (0x018, s.arg0.toNat), (0x01C, s.arg1.toNat), (0x020, s.result.toNat),
   (0x024, s.hdr.pageId.toNat), (0x028, s.hdr.pageType.toNat), (0x02C, s.hdr.flags.toNat),
   (0x030, s.hdr.freeSpace.toNat), (0x034, s.hdr.checksum.toNat), (0x038, s.hdr.lsn.toNat)]

/-- What a write of `v` to each RW register but CMD leaves, by offset (10_state.md R21, R31; 20_memory.md R62). -/
def registerWriteTable (s : State) (v : Word) : List (Nat × State) :=
  [(0x014, { s with len := v }), (0x018, { s with arg0 := v }), (0x01C, { s with arg1 := v }),
   (0x024, { s with hdr := { s.hdr with pageId := v } }),
   (0x028, { s with hdr := { s.hdr with pageType := BitVec.ofNat 8 (v.toNat % 256) } }),
   (0x02C, { s with hdr := { s.hdr with flags := BitVec.ofNat 8 (v.toNat % 256) } }),
   (0x030, { s with hdr := { s.hdr with freeSpace := BitVec.ofNat 16 (v.toNat % 65536) } }),
   (0x034, { s with hdr := { s.hdr with checksum := v } }),
   (0x038, { s with hdr := { s.hdr with lsn := v } })]

/-- The registers whose reads in flight are open, with their widths in bits (70_reset_and_hazards.md R242). -/
def openRegisters : List (Nat × Nat) :=
  [(0x010, 32), (0x020, 32), (0x024, 32), (0x028, 8), (0x02C, 8), (0x030, 16), (0x034, 32), (0x038, 32)]

/-- FLD_GET and FLD_SET by field: the two commands, their words, the field's offset and width (30_encoding.md R85). -/
def fieldTable : List (Instr × Word × Instr × Word × Nat × Nat) :=
  [(.fldGetPageId, 0x00000014, .fldSetPageId, 0x00000015, 0, 4),
   (.fldGetPageType, 0x00000114, .fldSetPageType, 0x00000115, 4, 1),
   (.fldGetFlags, 0x00000214, .fldSetFlags, 0x00000215, 5, 1),
   (.fldGetFreeSpace, 0x00000314, .fldSetFreeSpace, 0x00000315, 6, 2),
   (.fldGetChecksum, 0x00000414, .fldSetChecksum, 0x00000415, 8, 4),
   (.fldGetLsn, 0x00000514, .fldSetLsn, 0x00000515, 12, 4)]

/-- The five predicates: command, word, class (40_pagetype.md R104 to R108). -/
def predicateTable : List (Instr × Word × List Nat) :=
  [(.isBtree, 0x00000021, [4, 5]), (.isFreelist, 0x00000022, [8]), (.isOverflow, 0x00000023, [7]),
   (.isData, 0x00000024, [3]), (.isMeta, 0x00000025, [1, 2])]

/-- The commands that may write RESULT (30_encoding.md R88). -/
def resultCommands : List Instr :=
  [.crc32, .pcsum, .calcChecksum, .verify, .iscorr, .fldGetPageId, .fldGetPageType, .fldGetFlags, .fldGetFreeSpace,
   .fldGetChecksum, .fldGetLsn, .getDirty, .getPinned, .typeDecode, .isBtree, .isFreelist, .isOverflow, .isData, .isMeta]

/-- The commands that may write the HDR registers (30_encoding.md R88). -/
def headerCommands : List Instr := [.hdrDefault, .hdrNew, .hdrUnpack]

/-- The commands that may raise an error (60_exceptions.md R200). -/
def raisingCommands : List Instr :=
  [.crc32, .pcsum, .calcChecksum, .hdrNew, .typeDecode, .isBtree, .isFreelist, .isOverflow, .isData, .isMeta]

/-- The bytes of BUF a command may write: where they start and how many (30_encoding.md R88). -/
def storeRange : Instr → Nat × Nat
  | .calcChecksum => (8, 4)
  | .pageNew => (0, 4096)
  | .hdrPack => (0, 16)
  | .fldSetPageId => (0, 4)
  | .fldSetPageType => (4, 1)
  | .fldSetFlags => (5, 1)
  | .fldSetFreeSpace => (6, 2)
  | .fldSetChecksum => (8, 4)
  | .fldSetLsn => (12, 4)
  | .setDirty _ => (5, 1)
  | .setPinned _ => (5, 1)
  | _ => (0, 0)

end Sys2Proof.Machine
end

