-- ==== Sys2Proof/Certificates/Slice0/Obligations.lean ====
section
/-! DEFINITION. What is claimed of the machine. Each statement says which rule of spec/ it formalises; the tables and
predicates it names are in Safety.lean, by the spec's own numbers. -/

open Sys2Proof Sys2Proof.Machine

/-! ## Encoding -/

/-- 30_encoding.md R84 to R86: a word decodes to a command exactly when it is that command's word, so no bit of an
encoding is dropped and each legal word has one meaning. -/
def Obligations.DecodeEncodeAgree : Prop :=
  ∀ (c : Word) (i : Instr), decode c = .ok i ↔ c = encode i

/-- 30_encoding.md R86, R87: the legal words, by their bits. -/
def Obligations.DecodeAcceptsExactlyTheLegalWords : Prop :=
  ∀ c : Word, (∃ i, decode c = .ok i) ↔
    c.toNat % 256 ∈ [0x01, 0x02, 0x03, 0x04, 0x05, 0x08, 0x10, 0x11, 0x12, 0x13, 0x14, 0x15,
      0x18, 0x19, 0x1A, 0x1B, 0x20, 0x21, 0x22, 0x23, 0x24, 0x25] ∧
    c.toNat / 2 ^ 12 % 16 = 0 ∧ c.toNat / 2 ^ 17 = 0 ∧
    (if c.toNat % 256 = 0x14 ∨ c.toNat % 256 = 0x15 then c.toNat / 2 ^ 8 % 16 ≤ 5 else c.toNat / 2 ^ 8 % 16 = 0) ∧
    (c.toNat % 256 = 0x19 ∨ c.toNat % 256 = 0x1B ∨ c.toNat / 2 ^ 16 % 2 = 0)

/-- 30_encoding.md R84, R85, 95_test_vectors.md V-EN: some words written out from the spec's tables. -/
def Obligations.TabledWordsDecode : Prop :=
  decode 0x00000003 = .ok .calcChecksum ∧ decode 0x00000008 = .ok .pageNew ∧ decode 0x00000013 = .ok .hdrUnpack ∧
  decode 0x00000314 = .ok .fldGetFreeSpace ∧ decode 0x00000514 = .ok .fldGetLsn ∧
  decode 0x00000415 = .ok .fldSetChecksum ∧ decode 0x00010019 = .ok (.setDirty true) ∧
  decode 0x0000001B = .ok (.setPinned false) ∧ decode 0x00000025 = .ok .isMeta ∧
  decode 0x00000000 = .error .reservedOpcode ∧ decode 0x00000614 = .error .selReserved ∧
  decode 0x00000101 = .error .selMisplaced ∧ decode 0x00010018 = .error .vMisplaced ∧
  decode 0x00001001 = .error .z1NotZero ∧ decode 0x00020019 = .error .z2NotZero

/-! ## The machine as a whole -/

/-- Every step keeps the invariant of Safety.lean: the canonical forms (the model's own listing, log 2, 9), the
clean latch, and that a standing error code is explained by the last command and ERRINFO (10_state.md R24, R32, R34;
60_exceptions.md R200). -/
def Obligations.StepKeepsInvariant : Prop :=
  ∀ s t : State, s.Inv → step s = .next t → t.Inv

/-- The state after reset (10_state.md R21, 70_reset_and_hazards.md R232) meets the invariant. -/
def Obligations.ResetMeetsInvariant : Prop := State.reset.Inv

/-- 10_state.md R33, R34: when the engine has its turn it performs the latched command: the latch is emptied, the word
decoded, the command performed or ILLEGAL_COMMAND raised, and DONE set. With nothing latched only the model's own list of events moves (log 6). -/
def Obligations.StepPerformsTheDecodedCommand : Prop :=
  ∀ (s : State) (rest : List Event), EngineTurn s rest →
    (∀ c i, s.pending = some c → decode c = .ok i →
      step s = match exec i { s with inbox := rest, pending := none } with
        | .next t => .next { t with done := true }
        | .fault r => .fault r
        | .refused r => .refused r) ∧
    (∀ c e, s.pending = some c → decode c = .error e →
      step s = .next { s with inbox := rest, pending := none, done := true, errcode := .illegalCommand, errinfo := c }) ∧
    (s.pending = none → step s = .next { s with inbox := rest })

/-- 60_exceptions.md R204: an illegal word raises ILLEGAL_COMMAND, code 3, with the word in ERRINFO, and changes nothing
else (30_encoding.md R87). -/
def Obligations.IllegalWordRaisesIllegalCommand : Prop :=
  errNumber .illegalCommand = 3 ∧
  ∀ (s : State) (rest : List Event) (c : Word), EngineTurn s rest → s.pending = some c →
    (CmdFields.ofWord c).wellFormed = false →
    step s = .next { s with inbox := rest, pending := none, done := true, errcode := .illegalCommand, errinfo := c }

/-- 30_encoding.md R88, 00_scope.md R13, 10_state.md R29, R30: every command answers a next state, and writes only the
state the table of R88 gives it: no command writes CMD, LEN, ARG0, ARG1, the latch, DONE or the fault set. -/
def Obligations.CommandsWriteOnlyTheirState : Prop :=
  ∀ (i : Instr) (s : State), ∃ t, exec i s = .next t ∧
    t = { s with errcode := t.errcode, errinfo := t.errinfo, result := t.result, hdr := t.hdr, buf := t.buf } ∧
    (i ∉ resultCommands → t.result = s.result) ∧
    (i ∉ headerCommands → t.hdr = s.hdr) ∧
    (i ∉ raisingCommands → t.errcode = s.errcode ∧ t.errinfo = s.errinfo) ∧
    (∀ k, k < 4096 → ¬((storeRange i).1 ≤ k ∧ k < (storeRange i).1 + (storeRange i).2) → t.bufByte k = s.bufByte k)

/-- 60_exceptions.md R201: a command that raises an error changes only ERRCODE, ERRINFO and, by completing, DONE and the
latch. ERRCODE is clear when a command starts (10_state.md R24). -/
def Obligations.ErrorsLeaveNothingHalfDone : Prop :=
  ∀ (s t : State) (rest : List Event) (c : Word), EngineTurn s rest → s.pending = some c → s.errcode = .noError →
    step s = .next t → t.errcode ≠ .noError →
    t = { s with inbox := rest, pending := none, done := true, errcode := t.errcode, errinfo := t.errinfo }

/-- 10_state.md R26: only a command that raises an error, and reset, change ERRINFO. -/
def Obligations.ErrinfoChangesOnlyByErrorOrReset : Prop :=
  ∀ s t : State, step s = .next t → t.errinfo ≠ s.errinfo →
    (∃ rest, s.inbox = .reset :: rest) ∨
    ((∃ rest, EngineTurn s rest) ∧ s.pending ≠ none ∧ t.done = true ∧ t.errcode ≠ .noError)

/-- 10_state.md R38, 70_reset_and_hazards.md R231: what can change the header flags byte: FLD_SET flags, SET_DIRTY,
SET_PINNED, HDR_PACK, PAGE_NEW, a host write, and the draw of a reset. -/
def Obligations.HeaderFlagsChangeOnlyByNamedEvents : Prop :=
  ∀ s t : State, step s = .next t → t.bufByte 5 ≠ s.bufByte 5 →
    (∃ rest, s.inbox = .reset :: rest) ∨
    (∃ a rest, (s.inbox = .host a :: rest ∨ s.inbox = .bus a :: rest) ∧ a.dir ≠ .read) ∨
    (∃ rest c i, EngineTurn s rest ∧ s.pending = some c ∧ decode c = .ok i ∧
      i ∈ [.pageNew, .hdrPack, .fldSetFlags, .setDirty true, .setDirty false, .setPinned true, .setPinned false])

/-- 60_exceptions.md R210, 70_reset_and_hazards.md R232: no step, a reset included, clears a recorded host fault. -/
def Obligations.RecordedFaultsStay : Prop :=
  ∀ (s t : State) (f : HostFault), step s = .next t → f ∈ s.faults → f ∈ t.faults

/-- 70_reset_and_hazards.md R250, R252: whatever the environment still does inside the window, the run ends: after that
many steps and one more, nothing is left to do, nothing is pending, and the state stays. That the last step is the
engine's is the model's form of the fairness of R250 (log 5, 6). -/
def Obligations.EveryRunEnds : Prop :=
  ∀ s : State, (∀ e ∈ s.inbox, e.InWindow) →
    ∃ t : State, Host.Core.run core (s.inbox.length + 1) s = .next t ∧
      t.inbox = [] ∧ t.pending = none ∧ step t = .next t

/-- 20_memory.md R70, 30_encoding.md R90: after `RUN i`, whatever the number of BUSY reads in between, the STATUS read that
ends the poll answers the completed command's STATUS, and RESULT, BUF, the HDR registers, ERRCODE and ERRINFO are those
the command leaves. -/
def Obligations.PollSeesTheCompletedCommand : Prop :=
  ∀ (s : State) (i : Instr) (k : Nat) (rest : List Event), s.pending = none → s.inbox = runCmd i k ++ rest →
    ∃ t u : State, Host.Core.run core (k + 3) s = .next t ∧
      exec i { s with cmd := encode i, done := false, errcode := .noError } = .next u ∧
      t.inbox = rest ∧ t.pending = none ∧ t.done = true ∧ t.cmd = encode i ∧
      t.result = u.result ∧ t.buf = u.buf ∧ t.hdr = u.hdr ∧ t.errcode = u.errcode ∧ t.errinfo = u.errinfo ∧
      t.reply = some (.data (BitVec.ofNat 32 (statusNumber t)))

/-! ## The host port -/

/-- 20_memory.md R62, R65, R66, 60_exceptions.md R210, R211, 70_reset_and_hazards.md R241: an access that is not
admitted, and a write while busy, adds its faults to the fault set, is answered by a bus error, and has no other
effect. That an access which breaks two rules records both is the model's reading (log 10), and the
answer a model field (log 7). -/
def Obligations.FaultyAccessIsOnlyRecorded : Prop :=
  ∀ (s : State) (a : Access) (rest : List Event), s.inbox = .host a :: rest → a.addr < 0x2000 → (∃ f, Records s a f) →
    ∃ fs, step s = .next { s with inbox := rest, faults := fs, reply := some .busError } ∧
      ∀ f, f ∈ fs ↔ f ∈ s.faults ∨ Records s a f

/-- 20_memory.md R60: from a state with no fault and nothing pending, an access is admitted (it records nothing, or it is
a write of an RO register) exactly when the rule lists it. -/
def Obligations.AdmittedAccessesAreTheListedOnes : Prop :=
  ∀ (s : State) (a : Access) (rest : List Event), s.Launch → s.inbox = .host a :: rest → a.addr < 0x2000 →
    ∃ t, step s = .next t ∧
      ((t.faults = [] ∨ t.faults = [.busReadonly a.addr]) ↔
        (a.width = 4 ∧ a.addr % 4 = 0 ∧ a.addr ≤ 0x038) ∨
        ((a.width = 1 ∨ a.width = 2 ∨ a.width = 4) ∧ a.addr % a.width = 0 ∧ 0x1000 ≤ a.addr ∧ a.addr ≤ 0x1FFF))

/-- 20_memory.md R61, 10_state.md R21 to R31, 70_reset_and_hazards.md R242: a register read answers the register's value
and changes nothing, when idle for every register, and in flight for STATUS, CAPS, BUFCAP, CMD, LEN, ARG0 and ARG1. -/
def Obligations.RegisterReadsAnswerExactly : Prop :=
  ∀ (s : State) (rest : List Event) (p : Nat × Nat), p ∈ registerTable s →
    s.inbox = .host { addr := p.1, width := 4, dir := .read } :: rest →
    (s.pending = none ∨ p.1 ∈ [0x000, 0x004, 0x008, 0x00C, 0x014, 0x018, 0x01C]) →
    step s = .next { s with inbox := rest, reply := some (.data (BitVec.ofNat 32 p.2)) }

/-- 70_reset_and_hazards.md R242: in flight, a read of RESULT, ERRINFO, an HDR register or BUF answers some value of the
right width and changes no state of the block (the counter of the free values moves on; log 4). -/
def Obligations.ReadsInFlightAnswerSomeValue : Prop :=
  ∀ (s : State) (rest : List Event) (c : Word) (a n : Nat), s.pending = some c →
    s.inbox = .host { addr := a, width := n, dir := .read } :: rest →
    (∀ w, n = 4 → (a, w) ∈ openRegisters →
      ∃ x : Word, x.toNat < 2 ^ w ∧
        step s = .next { s with inbox := rest, reply := some (.data x), draws := s.draws + 1 }) ∧
    ((n = 1 ∨ n = 2 ∨ n = 4) → a % n = 0 → 0x1000 ≤ a → a < 0x2000 →
      ∃ x : Word, x.toNat < 2 ^ (8 * n) ∧
        step s = .next { s with inbox := rest, reply := some (.data x), draws := s.draws + 1 })

/-- 20_memory.md R62, 10_state.md R28, R29, R31: a write to an RW register other than CMD keeps the low bits of the
register's width and changes nothing else. -/
def Obligations.RegisterWritesKeepTheWidth : Prop :=
  ∀ (s : State) (rest : List Event) (v : Word) (p : Nat × State), s.pending = none →
    p ∈ registerWriteTable s v → s.inbox = .host { addr := p.1, width := 4, dir := .write v } :: rest →
    step s = .next { p.2 with inbox := rest, reply := some .written }

/-- 10_state.md R24: a CMD write while idle latches the word whatever it is, clears DONE and ERRCODE, and a read of CMD
then returns the word; after reset CMD is 0; a CMD write while a command is pending is the hazard of
70_reset_and_hazards.md R241, recorded and without effect. -/
def Obligations.CmdWriteIssuesTheCommand : Prop :=
  State.reset.cmd = 0 ∧
  (∀ (s : State) (c : Word) (rest : List Event), s.pending = none →
    s.inbox = .host { addr := 0x008, width := 4, dir := .write c } ::
      .host { addr := 0x008, width := 4, dir := .read } :: rest →
    ∃ t, step s = .next t ∧
      t = { s with
        cmd := c, pending := some c, done := false, errcode := .noError
        inbox := .host { addr := 0x008, width := 4, dir := .read } :: rest, reply := some .written } ∧
      step t = .next { t with inbox := rest, reply := some (.data c) }) ∧
  (∀ (s : State) (c : Word) (rest : List Event), s.pending ≠ none →
    s.inbox = .host { addr := 0x008, width := 4, dir := .write c } :: rest →
    ∃ fs, step s = .next { s with inbox := rest, faults := fs, reply := some .busError } ∧
      ∀ f, f ∈ fs ↔ f ∈ s.faults ∨ f = .writeWhileBusy 0x008)

/-- 20_memory.md R63, R55: an idle read of 1, 2 or 4 bytes of the buffer window answers their little-endian value and
changes no state. -/
def Obligations.BufferReadsAreLittleEndian : Prop :=
  ∀ (s : State) (rest : List Event) (k n : Nat), s.pending = none → (n = 1 ∨ n = 2 ∨ n = 4) → k < 4096 → k % n = 0 →
    s.inbox = .host { addr := 0x1000 + k, width := n, dir := .read } :: rest →
    ∃ x : Word, x.toNat = s.bufNat k n ∧ step s = .next { s with inbox := rest, reply := some (.data x) }

/-- 20_memory.md R64: an idle write of 1, 2 or 4 bytes to the buffer window stores them little-endian and changes no
other byte and no other state. -/
def Obligations.BufferWritesAreLittleEndian : Prop :=
  ∀ (s : State) (rest : List Event) (k n : Nat) (v : Word), s.pending = none → (n = 1 ∨ n = 2 ∨ n = 4) → k < 4096 →
    k % n = 0 → s.inbox = .host { addr := 0x1000 + k, width := n, dir := .write v } :: rest →
    ∃ t, step s = .next t ∧ StoresOnly { s with inbox := rest, reply := some .written } t k n v

/-- 70_reset_and_hazards.md R241 to R243: while a command is in flight no host access changes anything of the block but
the fault set, so the operands the command reads are those it had when it was issued. -/
def Obligations.NothingChangesInFlight : Prop :=
  ∀ (s t : State) (a : Access) (rest : List Event), s.pending ≠ none →
    (s.inbox = .host a :: rest ∨ s.inbox = .bus a :: rest) → step s = .next t →
    t = { s with inbox := rest, faults := t.faults, reply := t.reply, draws := t.draws }

/-- 20_memory.md R68: no host read, admitted or not, idle or in flight, changes the block but by recording a fault. -/
def Obligations.ReadsHaveNoSideEffect : Prop :=
  ∀ (s t : State) (a : Access) (rest : List Event), a.dir = .read →
    (s.inbox = .host a :: rest ∨ s.inbox = .bus a :: rest) → step s = .next t →
    t = { s with inbox := rest, faults := t.faults, reply := t.reply, draws := t.draws }

/-- 70_reset_and_hazards.md R230, R232: the reset signal puts every register at its reset value, discards a pending
command, keeps the fault set, and leaves STATUS reading 0, CAPS and BUFCAP 0x1000. -/
def Obligations.ResetSignalResetsTheBlock : Prop :=
  ∀ (s : State) (rest : List Event), s.inbox = .reset :: rest →
    ∃ t, step s = .next t ∧ t.faults = s.faults ∧ t.pending = none ∧ t.inbox = rest ∧
      registerTable t = [(0x000, 0x1000), (0x004, 0x1000), (0x008, 0), (0x00C, 0), (0x010, 0), (0x014, 0x1000),
        (0x018, 0), (0x01C, 0), (0x020, 0), (0x024, 0), (0x028, 0), (0x02C, 0), (0x030, 0), (0x034, 0), (0x038, 0)]

/-- 70_reset_and_hazards.md R231: after a reset every byte of BUF holds the free value of that reset (log 1, 3), and it keeps
it through every step that is not a reset, a host write or a performed command. -/
def Obligations.ResetDrawsTheBufferOnce : Prop :=
  (∀ (s : State) (rest : List Event), s.inbox = .reset :: rest →
    ∃ t, step s = .next t ∧ t.resets = s.resets + 1 ∧ ∀ k, t.bufByte k = Config.resetByte t.resets k) ∧
  (∀ (s t : State) (k : Nat), step s = .next t → t.bufByte k ≠ s.bufByte k →
    (∃ rest, s.inbox = .reset :: rest) ∨
    (∃ a rest, (s.inbox = .host a :: rest ∨ s.inbox = .bus a :: rest) ∧ a.dir ≠ .read) ∨
    (∃ rest c i, EngineTurn s rest ∧ s.pending = some c ∧ decode c = .ok i))

/-- 20_memory.md R66, 93_implementation_defined.md U10: an access outside the window is not the block's (log 11). -/
def Obligations.AccessOutsideTheWindowIsRefused : Prop :=
  ∀ (s : State) (a : Access) (rest : List Event), s.inbox = .bus a :: rest →
    (a.addr < Config.base ∨ Config.base + 0x1FFF < a.addr) → step s = .refused (.outsideWindow a.addr)

/-- 20_memory.md R50 to R52: wherever the platform puts the window, BASE is a multiple of 0x2000, the buffer window is
page-aligned, and an access at BASE + off is the access at window offset off. -/
def Obligations.WindowLiesAtBase : Prop :=
  Config.base % 0x2000 = 0 ∧ (Config.base + 0x1000) % 4096 = 0 ∧
  ∀ (s : State) (off n : Nat) (d : Dir) (rest : List Event), off < 0x2000 →
    s.inbox = .bus { addr := Config.base + off, width := n, dir := d } :: rest →
    step s = step { s with inbox := .host { addr := off, width := n, dir := d } :: rest }

/-! ## Checksum commands -/

/-- 42_checksum.md R153, R154: CRC32 over the prefix, or LENGTH_RANGE above 4096. -/
def Obligations.Crc32HashesThePrefix : Prop :=
  decode 0x00000001 = .ok .crc32 ∧
  ∀ s : State,
    (s.len.toNat ≤ 4096 →
      exec .crc32 s = .next { s with result := crc32 ((List.range s.len.toNat).map s.bufByte) }) ∧
    (4096 < s.len.toNat → exec .crc32 s = .next { s with errcode := .lengthRange, errinfo := s.len })

/-- 42_checksum.md R153 (corner cases): the result does not depend on the bytes from LEN on. -/
def Obligations.Crc32IgnoresBytesPastLen : Prop :=
  ∀ s t : State, s.len = t.len → s.len.toNat ≤ 4096 → (∀ k, k < s.len.toNat → s.bufByte k = t.bufByte k) →
    ∃ r, exec .crc32 s = .next { s with result := r } ∧ exec .crc32 t = .next { t with result := r }

/-- 42_checksum.md R152, R153: the check value, and 0 on empty input. -/
def Obligations.Crc32GivesTheCheckValue : Prop :=
  ∀ s : State,
    (s.len = 9 → (∀ k, k < 9 → s.bufByte k = BitVec.ofNat 8 (0x31 + k)) →
      exec .crc32 s = .next { s with result := 0xCBF43926 }) ∧
    (s.len = 0 → exec .crc32 s = .next { s with result := 0 })

/-- 42_checksum.md R158: the page checksum in its streaming forms: two runs of the loop, and one pass over the buffer
that skips offsets 8 to 11. The spec derives it from R152 and R155. -/
def Obligations.PageChecksumStreams : Prop :=
  ∀ s : State,
    s.pageChecksum = crcUpd (crcUpd 0xFFFFFFFF ((List.range 8).map s.bufByte))
      ((List.range 4084).map fun i => s.bufByte (12 + i)) ^^^ 0xFFFFFFFF ∧
    s.pageChecksum = (List.range 4096).foldl
      (fun crc k => if 8 ≤ k ∧ k < 12 then crc else crcByte crc (s.bufByte k)) 0xFFFFFFFF ^^^ 0xFFFFFFFF

/-- 42_checksum.md R156, R155: PCSUM is the CRC of `BUF[0..8) ++ BUF[12..4096)`, or INVALID_INPUT. -/
def Obligations.PcsumHashesThePageLessItsWindow : Prop :=
  decode 0x00000002 = .ok .pcsum ∧
  ∀ s : State,
    (s.len.toNat = 4096 →
      exec .pcsum s = .next { s with
        result := crc32 ((List.range 8).map s.bufByte ++ (List.range 4084).map fun i => s.bufByte (12 + i)) }) ∧
    (s.len.toNat ≠ 4096 → exec .pcsum s = .next { s with errcode := .invalidInput, errinfo := s.len })

/-- 42_checksum.md R155, R159 law 3: changing only the exclusion window does not change the page checksum. -/
def Obligations.PageChecksumIgnoresItsWindow : Prop :=
  ∀ s t : State, s.len.toNat = 4096 → t.len.toNat = 4096 →
    (∀ k, k < 4096 → ¬(8 ≤ k ∧ k < 12) → s.bufByte k = t.bufByte k) →
    ∃ r, exec .pcsum s = .next { s with result := r } ∧ exec .pcsum t = .next { t with result := r }

/-! ## Page commands -/

/-- 43_page.md R170: PAGE_NEW gives all of BUF a known value and writes nothing else. -/
def Obligations.PageNewWritesTheNewPage : Prop :=
  decode 0x00000008 = .ok .pageNew ∧
  ∀ s : State, ∃ t, exec .pageNew s = .next t ∧ t = { s with buf := t.buf } ∧
    ∀ k, k < 4096 → t.bufByte k = if k = 4 then 0x02 else if k = 6 then 0xF0 else if k = 7 then 0x0F else 0

/-- 43_page.md R171: CALC stores the page checksum little-endian in the window and in RESULT and writes nothing else, or
raises INVALID_INPUT. -/
def Obligations.CalcStoresThePageChecksum : Prop :=
  decode 0x00000003 = .ok .calcChecksum ∧
  ∀ s : State,
    (s.len.toNat = 4096 →
      ∃ t, exec .calcChecksum s = .next t ∧
        StoresOnly { s with result := s.pageChecksum } t 8 4 s.pageChecksum) ∧
    (s.len.toNat ≠ 4096 → exec .calcChecksum s = .next { s with errcode := .invalidInput, errinfo := s.len })

/-- 43_page.md R172: VERIFY compares the stored value with the page checksum; any other LEN gives 0; never an error. -/
def Obligations.VerifyComparesTheStoredChecksum : Prop :=
  decode 0x00000004 = .ok .verify ∧
  ∀ s : State,
    (s.len.toNat = 4096 →
      exec .verify s = .next { s with result := if s.bufNat 8 4 = s.pageChecksum.toNat then 1 else 0 }) ∧
    (s.len.toNat ≠ 4096 → exec .verify s = .next { s with result := 0 })

/-- 43_page.md R173: ISCORR by its pseudocode, and that in every state its RESULT is 1 minus VERIFY's. The spec derives
this last clause from R172 and R173. -/
def Obligations.IscorrIsTheNegation : Prop :=
  decode 0x00000005 = .ok .iscorr ∧
  ∀ s : State,
    (s.len.toNat = 4096 →
      exec .iscorr s = .next { s with result := if s.bufNat 8 4 = s.pageChecksum.toNat then 0 else 1 }) ∧
    (s.len.toNat ≠ 4096 → exec .iscorr s = .next { s with result := 1 }) ∧
    (∃ r : Word, exec .verify s = .next { s with result := r } ∧ exec .iscorr s = .next { s with result := 1 - r })

/-- 43_page.md R174: after CALC, a VERIFY of a state with the same BUF and LEN gives 1, for every buffer content. The spec derives it
from R171, R172 and R155. -/
def Obligations.CalcThenVerifyHolds : Prop :=
  ∀ s t u : State, s.len.toNat = 4096 → exec .calcChecksum s = .next t →
    u.len = t.len → (∀ k, k < 4096 → u.bufByte k = t.bufByte k) → exec .verify u = .next { u with result := 1 }

/-- 43_page.md R175, 42_checksum.md R159 law 4: with LEN = 4096 after CALC, any change of one byte outside the window, to
any other value, makes VERIFY give 0, and the old byte written back makes it give 1 again. The spec derives it
from R172 and R159. -/
def Obligations.OneByteChangeIsDetected : Prop :=
  ∀ (s t u w : State) (k : Nat), s.len.toNat = 4096 → exec .calcChecksum s = .next t →
    k < 4096 → ¬(8 ≤ k ∧ k < 12) → u.len.toNat = 4096 → w.len.toNat = 4096 →
    u.bufByte k ≠ t.bufByte k → (∀ j, j < 4096 → j ≠ k → u.bufByte j = t.bufByte j) →
    (∀ j, j < 4096 → w.bufByte j = if j = k then t.bufByte k else u.bufByte j) →
    exec .verify u = .next { u with result := 0 } ∧ exec .verify w = .next { w with result := 1 }

/-- 43_page.md R176: after CALC stored c, a change confined to the window leaves PCSUM at c, and VERIFY gives 1 exactly
when the stored value is c. The spec derives it from R172 and R159. -/
def Obligations.WindowChangeIsComparedNotHashed : Prop :=
  ∀ s t u : State, s.len.toNat = 4096 → exec .calcChecksum s = .next t → u.len.toNat = 4096 →
    (∀ k, k < 4096 → ¬(8 ≤ k ∧ k < 12) → u.bufByte k = t.bufByte k) →
    exec .pcsum u = .next { u with result := t.result } ∧
    exec .verify u = .next { u with result := if u.bufNat 8 4 = t.result.toNat then 1 else 0 }

/-- 43_page.md R177: a new page's checksum is 0xF7A04C4D and its stored checksum 0, so VERIFY gives 0 and ISCORR 1.
The spec computed the value from 42_checksum.md R152 and R155. -/
def Obligations.NewPageDoesNotVerify : Prop :=
  ∀ s t : State, s.len.toNat = 4096 → exec .pageNew s = .next t →
    t.bufNat 8 4 = 0 ∧ exec .pcsum t = .next { t with result := 0xF7A04C4D } ∧
    exec .verify t = .next { t with result := 0 } ∧ exec .iscorr t = .next { t with result := 1 }

/-! ## Header commands -/

/-- 41_header.md R124, R121: the default header. -/
def Obligations.HdrDefaultLoadsTheDefaults : Prop :=
  decode 0x00000010 = .ok .hdrDefault ∧
  ∀ s : State, exec .hdrDefault s = .next { s with
    hdr := { pageId := 0, pageType := 0x02, flags := 0, freeSpace := 0x0FF0, checksum := 0, lsn := 0 } }

/-- 41_header.md R125: the default header with the given type and id, or INVALID_PAGE_TYPE. -/
def Obligations.HdrNewChecksTheTag : Prop :=
  decode 0x00000011 = .ok .hdrNew ∧
  ∀ s : State,
    (1 ≤ s.arg0.toNat % 256 ∧ s.arg0.toNat % 256 ≤ 9 →
      exec .hdrNew s = .next { s with
        hdr := { pageId := s.arg1, pageType := BitVec.ofNat 8 (s.arg0.toNat % 256), flags := 0, freeSpace := 0x0FF0
                 checksum := 0, lsn := 0 } }) ∧
    (¬(1 ≤ s.arg0.toNat % 256 ∧ s.arg0.toNat % 256 ≤ 9) →
      exec .hdrNew s = .next { s with
        errcode := .invalidPageType, errinfo := BitVec.ofNat 32 (s.arg0.toNat % 256) })

/-- 41_header.md R126, R120: HDR_PACK writes the sixteen header bytes, little-endian at their offsets, and nothing
else. -/
def Obligations.HdrPackWritesTheHeaderBytes : Prop :=
  decode 0x00000012 = .ok .hdrPack ∧
  ∀ s : State, ∃ t, exec .hdrPack s = .next t ∧ t = { s with buf := t.buf } ∧
    t.bufNat 0 4 = s.hdr.pageId.toNat ∧ t.bufNat 4 1 = s.hdr.pageType.toNat ∧
    t.bufNat 5 1 = s.hdr.flags.toNat ∧ t.bufNat 6 2 = s.hdr.freeSpace.toNat ∧
    t.bufNat 8 4 = s.hdr.checksum.toNat ∧ t.bufNat 12 4 = s.hdr.lsn.toNat ∧
    ∀ k, 16 ≤ k → t.bufByte k = s.bufByte k

/-- 41_header.md R127: HDR_UNPACK reads the sixteen header bytes into the HDR registers and writes nothing else. -/
def Obligations.HdrUnpackReadsTheHeaderBytes : Prop :=
  decode 0x00000013 = .ok .hdrUnpack ∧
  ∀ s : State, ∃ h : Header, exec .hdrUnpack s = .next { s with hdr := h } ∧
    h.pageId.toNat = s.bufNat 0 4 ∧ h.pageType.toNat = s.bufNat 4 1 ∧ h.flags.toNat = s.bufNat 5 1 ∧
    h.freeSpace.toNat = s.bufNat 6 2 ∧ h.checksum.toNat = s.bufNat 8 4 ∧ h.lsn.toNat = s.bufNat 12 4

/-- 41_header.md R123: pack then unpack leaves the HDR registers; unpack then pack leaves every byte of BUF. The
spec derives it from R126 and R127. -/
def Obligations.PackAndUnpackAreInverse : Prop :=
  ∀ s t u : State,
    (exec .hdrPack s = .next t → exec .hdrUnpack t = .next u → u.hdr = s.hdr) ∧
    (exec .hdrUnpack s = .next t → exec .hdrPack t = .next u → ∀ k, u.bufByte k = s.bufByte k)

/-- 41_header.md R129: each FLD_GET reads its field of BUF, zero-extended, into RESULT and writes nothing else. -/
def Obligations.FldGetReadsItsField : Prop :=
  ∀ g wg p wp off n, (g, wg, p, wp, off, n) ∈ fieldTable →
    decode wg = .ok g ∧
    ∀ s : State, ∃ v : Word, v.toNat = s.bufNat off n ∧ exec g s = .next { s with result := v }

/-- 41_header.md R130: each FLD_SET writes its field of BUF with the low bytes of ARG0 and writes nothing else. -/
def Obligations.FldSetWritesItsField : Prop :=
  ∀ g wg p wp off n, (g, wg, p, wp, off, n) ∈ fieldTable →
    decode wp = .ok p ∧ ∀ s : State, ∃ t, exec p s = .next t ∧ StoresOnly s t off n s.arg0

/-- 41_header.md R120, R129, R130: a field read after it was set gives ARG0 cut to its width, and every other field
reads as before: the fields do not overlap. -/
def Obligations.FieldsAreIndependent : Prop :=
  ∀ g wg p wp off n g' wg' p' wp' off' n', (g, wg, p, wp, off, n) ∈ fieldTable →
    (g', wg', p', wp', off', n') ∈ fieldTable →
    ∀ s t : State, exec p s = .next t → ∃ v : Word, exec g' t = .next { t with result := v } ∧
      (g' = g → v.toNat = s.arg0.toNat % 2 ^ (8 * n)) ∧
      (g' ≠ g → exec g' s = .next { s with result := v })

/-- 41_header.md R132, R134: GET_DIRTY and GET_PINNED read bit 0 and bit 1 of `BUF[5]`. -/
def Obligations.GetFlagReadsItsBit : Prop :=
  decode 0x00000018 = .ok .getDirty ∧ decode 0x0000001A = .ok .getPinned ∧
  ∀ s : State,
    exec .getDirty s = .next { s with result := BitVec.ofNat 32 ((s.bufByte 5).toNat % 2) } ∧
    exec .getPinned s = .next { s with result := BitVec.ofNat 32 ((s.bufByte 5).toNat / 2 % 2) }

/-- 41_header.md R133, R135: SET_DIRTY v and SET_PINNED v write bit 0 and bit 1 of `BUF[5]`, keep its other seven bits and
every other byte of BUF, and write nothing else. -/
def Obligations.SetFlagWritesItsBit : Prop :=
  decode 0x00000019 = .ok (.setDirty false) ∧ decode 0x00010019 = .ok (.setDirty true) ∧
  decode 0x0000001B = .ok (.setPinned false) ∧ decode 0x0001001B = .ok (.setPinned true) ∧
  ∀ (s : State) (v : Bool) (i : Instr) (bit : Nat), (i, bit) ∈ [(.setDirty v, 0), (.setPinned v, 1)] →
    ∃ t, exec i s = .next t ∧ t = { s with buf := t.buf } ∧
      (∀ j, j < 8 → (t.bufByte 5).getLsbD j = if j = bit then v else (s.bufByte 5).getLsbD j) ∧
      ∀ k, k ≠ 5 → t.bufByte k = s.bufByte k

/-- 41_header.md R131: a flag read after it was set is the value set, and setting one never disturbs the other. -/
def Obligations.FlagsAreIndependent : Prop :=
  ∀ (s t : State) (v : Bool),
    (exec (.setDirty v) s = .next t →
      exec .getDirty t = .next { t with result := if v then 1 else 0 } ∧
      ∃ r, exec .getPinned s = .next { s with result := r } ∧ exec .getPinned t = .next { t with result := r }) ∧
    (exec (.setPinned v) s = .next t →
      exec .getPinned t = .next { t with result := if v then 1 else 0 } ∧
      ∃ r, exec .getDirty s = .next { s with result := r } ∧ exec .getDirty t = .next { t with result := r })

/-! ## Page-type commands -/

/-- 40_pagetype.md R102, R101: TYPE_DECODE answers the byte `ARG0[7:0]` when it is 1 to 9, and raises INVALID_PAGE_TYPE
with it otherwise. -/
def Obligations.TypeDecodeAcceptsTheNineTags : Prop :=
  decode 0x00000020 = .ok .typeDecode ∧
  ∀ s : State,
    (1 ≤ s.arg0.toNat % 256 ∧ s.arg0.toNat % 256 ≤ 9 →
      exec .typeDecode s = .next { s with result := BitVec.ofNat 32 (s.arg0.toNat % 256) }) ∧
    (¬(1 ≤ s.arg0.toNat % 256 ∧ s.arg0.toNat % 256 ≤ 9) →
      exec .typeDecode s = .next { s with
        errcode := .invalidPageType, errinfo := BitVec.ofNat 32 (s.arg0.toNat % 256) })

/-- 40_pagetype.md R103 to R108: each predicate answers 1 on its class and 0 on every other valid tag, and raises
INVALID_PAGE_TYPE on an invalid byte. -/
def Obligations.PredicatesClassifyTheTag : Prop :=
  ∀ i w cls, (i, w, cls) ∈ predicateTable →
    decode w = .ok i ∧
    ∀ s : State,
      (1 ≤ s.arg0.toNat % 256 ∧ s.arg0.toNat % 256 ≤ 9 →
        exec i s = .next { s with result := if s.arg0.toNat % 256 ∈ cls then 1 else 0 }) ∧
      (¬(1 ≤ s.arg0.toNat % 256 ∧ s.arg0.toNat % 256 ≤ 9) →
        exec i s = .next { s with
          errcode := .invalidPageType, errinfo := BitVec.ofNat 32 (s.arg0.toNat % 256) })
end

