-- ==== Sys2Proof/Laws/State.lean ====
section
/-! SUPPORT. One lemma per field per update of the state, so that no later proof unfolds a record update. -/

namespace Sys2Proof.Machine.State

variable (s : State)

@[simp] theorem setResult_cmd (v : Word) : (s.setResult v).cmd = s.cmd := rfl
@[simp] theorem setResult_done (v : Word) : (s.setResult v).done = s.done := rfl
@[simp] theorem setResult_errcode (v : Word) : (s.setResult v).errcode = s.errcode := rfl
@[simp] theorem setResult_errinfo (v : Word) : (s.setResult v).errinfo = s.errinfo := rfl
@[simp] theorem setResult_len (v : Word) : (s.setResult v).len = s.len := rfl
@[simp] theorem setResult_arg0 (v : Word) : (s.setResult v).arg0 = s.arg0 := rfl
@[simp] theorem setResult_arg1 (v : Word) : (s.setResult v).arg1 = s.arg1 := rfl
@[simp] theorem setResult_result (v : Word) : (s.setResult v).result = v := rfl
@[simp] theorem setResult_hdr (v : Word) : (s.setResult v).hdr = s.hdr := rfl
@[simp] theorem setResult_buf (v : Word) : (s.setResult v).buf = s.buf := rfl
@[simp] theorem setResult_pending (v : Word) : (s.setResult v).pending = s.pending := rfl
@[simp] theorem setResult_faults (v : Word) : (s.setResult v).faults = s.faults := rfl
@[simp] theorem setResult_inbox (v : Word) : (s.setResult v).inbox = s.inbox := rfl
@[simp] theorem setResult_reply (v : Word) : (s.setResult v).reply = s.reply := rfl
@[simp] theorem setResult_resets (v : Word) : (s.setResult v).resets = s.resets := rfl
@[simp] theorem setResult_draws (v : Word) : (s.setResult v).draws = s.draws := rfl

@[simp] theorem setHdr_cmd (h : Header) : (s.setHdr h).cmd = s.cmd := rfl
@[simp] theorem setHdr_done (h : Header) : (s.setHdr h).done = s.done := rfl
@[simp] theorem setHdr_errcode (h : Header) : (s.setHdr h).errcode = s.errcode := rfl
@[simp] theorem setHdr_errinfo (h : Header) : (s.setHdr h).errinfo = s.errinfo := rfl
@[simp] theorem setHdr_len (h : Header) : (s.setHdr h).len = s.len := rfl
@[simp] theorem setHdr_arg0 (h : Header) : (s.setHdr h).arg0 = s.arg0 := rfl
@[simp] theorem setHdr_arg1 (h : Header) : (s.setHdr h).arg1 = s.arg1 := rfl
@[simp] theorem setHdr_result (h : Header) : (s.setHdr h).result = s.result := rfl
@[simp] theorem setHdr_hdr (h : Header) : (s.setHdr h).hdr = h := rfl
@[simp] theorem setHdr_buf (h : Header) : (s.setHdr h).buf = s.buf := rfl
@[simp] theorem setHdr_pending (h : Header) : (s.setHdr h).pending = s.pending := rfl
@[simp] theorem setHdr_faults (h : Header) : (s.setHdr h).faults = s.faults := rfl
@[simp] theorem setHdr_inbox (h : Header) : (s.setHdr h).inbox = s.inbox := rfl
@[simp] theorem setHdr_reply (h : Header) : (s.setHdr h).reply = s.reply := rfl
@[simp] theorem setHdr_resets (h : Header) : (s.setHdr h).resets = s.resets := rfl
@[simp] theorem setHdr_draws (h : Header) : (s.setHdr h).draws = s.draws := rfl

@[simp] theorem raise_cmd (e : ErrCode) (w : Word) : (s.raise e w).cmd = s.cmd := rfl
@[simp] theorem raise_done (e : ErrCode) (w : Word) : (s.raise e w).done = s.done := rfl
@[simp] theorem raise_errcode (e : ErrCode) (w : Word) : (s.raise e w).errcode = e := rfl
@[simp] theorem raise_errinfo (e : ErrCode) (w : Word) : (s.raise e w).errinfo = w := rfl
@[simp] theorem raise_len (e : ErrCode) (w : Word) : (s.raise e w).len = s.len := rfl
@[simp] theorem raise_arg0 (e : ErrCode) (w : Word) : (s.raise e w).arg0 = s.arg0 := rfl
@[simp] theorem raise_arg1 (e : ErrCode) (w : Word) : (s.raise e w).arg1 = s.arg1 := rfl
@[simp] theorem raise_result (e : ErrCode) (w : Word) : (s.raise e w).result = s.result := rfl
@[simp] theorem raise_hdr (e : ErrCode) (w : Word) : (s.raise e w).hdr = s.hdr := rfl
@[simp] theorem raise_buf (e : ErrCode) (w : Word) : (s.raise e w).buf = s.buf := rfl
@[simp] theorem raise_pending (e : ErrCode) (w : Word) : (s.raise e w).pending = s.pending := rfl
@[simp] theorem raise_faults (e : ErrCode) (w : Word) : (s.raise e w).faults = s.faults := rfl
@[simp] theorem raise_inbox (e : ErrCode) (w : Word) : (s.raise e w).inbox = s.inbox := rfl
@[simp] theorem raise_reply (e : ErrCode) (w : Word) : (s.raise e w).reply = s.reply := rfl
@[simp] theorem raise_resets (e : ErrCode) (w : Word) : (s.raise e w).resets = s.resets := rfl
@[simp] theorem raise_draws (e : ErrCode) (w : Word) : (s.raise e w).draws = s.draws := rfl

@[simp] theorem issue_cmd (c : Word) : (s.issue c).cmd = c := rfl
@[simp] theorem issue_done (c : Word) : (s.issue c).done = false := rfl
@[simp] theorem issue_errcode (c : Word) : (s.issue c).errcode = .noError := rfl
@[simp] theorem issue_errinfo (c : Word) : (s.issue c).errinfo = s.errinfo := rfl
@[simp] theorem issue_len (c : Word) : (s.issue c).len = s.len := rfl
@[simp] theorem issue_arg0 (c : Word) : (s.issue c).arg0 = s.arg0 := rfl
@[simp] theorem issue_arg1 (c : Word) : (s.issue c).arg1 = s.arg1 := rfl
@[simp] theorem issue_result (c : Word) : (s.issue c).result = s.result := rfl
@[simp] theorem issue_hdr (c : Word) : (s.issue c).hdr = s.hdr := rfl
@[simp] theorem issue_buf (c : Word) : (s.issue c).buf = s.buf := rfl
@[simp] theorem issue_pending (c : Word) : (s.issue c).pending = some c := rfl
@[simp] theorem issue_faults (c : Word) : (s.issue c).faults = s.faults := rfl
@[simp] theorem issue_inbox (c : Word) : (s.issue c).inbox = s.inbox := rfl
@[simp] theorem issue_reply (c : Word) : (s.issue c).reply = s.reply := rfl
@[simp] theorem issue_resets (c : Word) : (s.issue c).resets = s.resets := rfl
@[simp] theorem issue_draws (c : Word) : (s.issue c).draws = s.draws := rfl

@[simp] theorem unlatch_cmd : (s.unlatch).cmd = s.cmd := rfl
@[simp] theorem unlatch_done : (s.unlatch).done = s.done := rfl
@[simp] theorem unlatch_errcode : (s.unlatch).errcode = s.errcode := rfl
@[simp] theorem unlatch_errinfo : (s.unlatch).errinfo = s.errinfo := rfl
@[simp] theorem unlatch_len : (s.unlatch).len = s.len := rfl
@[simp] theorem unlatch_arg0 : (s.unlatch).arg0 = s.arg0 := rfl
@[simp] theorem unlatch_arg1 : (s.unlatch).arg1 = s.arg1 := rfl
@[simp] theorem unlatch_result : (s.unlatch).result = s.result := rfl
@[simp] theorem unlatch_hdr : (s.unlatch).hdr = s.hdr := rfl
@[simp] theorem unlatch_buf : (s.unlatch).buf = s.buf := rfl
@[simp] theorem unlatch_pending : (s.unlatch).pending = none := rfl
@[simp] theorem unlatch_faults : (s.unlatch).faults = s.faults := rfl
@[simp] theorem unlatch_inbox : (s.unlatch).inbox = s.inbox := rfl
@[simp] theorem unlatch_reply : (s.unlatch).reply = s.reply := rfl
@[simp] theorem unlatch_resets : (s.unlatch).resets = s.resets := rfl
@[simp] theorem unlatch_draws : (s.unlatch).draws = s.draws := rfl

@[simp] theorem complete_cmd : (s.complete).cmd = s.cmd := rfl
@[simp] theorem complete_done : (s.complete).done = true := rfl
@[simp] theorem complete_errcode : (s.complete).errcode = s.errcode := rfl
@[simp] theorem complete_errinfo : (s.complete).errinfo = s.errinfo := rfl
@[simp] theorem complete_len : (s.complete).len = s.len := rfl
@[simp] theorem complete_arg0 : (s.complete).arg0 = s.arg0 := rfl
@[simp] theorem complete_arg1 : (s.complete).arg1 = s.arg1 := rfl
@[simp] theorem complete_result : (s.complete).result = s.result := rfl
@[simp] theorem complete_hdr : (s.complete).hdr = s.hdr := rfl
@[simp] theorem complete_buf : (s.complete).buf = s.buf := rfl
@[simp] theorem complete_pending : (s.complete).pending = s.pending := rfl
@[simp] theorem complete_faults : (s.complete).faults = s.faults := rfl
@[simp] theorem complete_inbox : (s.complete).inbox = s.inbox := rfl
@[simp] theorem complete_reply : (s.complete).reply = s.reply := rfl
@[simp] theorem complete_resets : (s.complete).resets = s.resets := rfl
@[simp] theorem complete_draws : (s.complete).draws = s.draws := rfl

@[simp] theorem bufWrite_cmd (off n : Nat) (v : Word) : (s.bufWrite off n v).cmd = s.cmd := rfl
@[simp] theorem bufWrite_done (off n : Nat) (v : Word) : (s.bufWrite off n v).done = s.done := rfl
@[simp] theorem bufWrite_errcode (off n : Nat) (v : Word) : (s.bufWrite off n v).errcode = s.errcode := rfl
@[simp] theorem bufWrite_errinfo (off n : Nat) (v : Word) : (s.bufWrite off n v).errinfo = s.errinfo := rfl
@[simp] theorem bufWrite_len (off n : Nat) (v : Word) : (s.bufWrite off n v).len = s.len := rfl
@[simp] theorem bufWrite_arg0 (off n : Nat) (v : Word) : (s.bufWrite off n v).arg0 = s.arg0 := rfl
@[simp] theorem bufWrite_arg1 (off n : Nat) (v : Word) : (s.bufWrite off n v).arg1 = s.arg1 := rfl
@[simp] theorem bufWrite_result (off n : Nat) (v : Word) : (s.bufWrite off n v).result = s.result := rfl
@[simp] theorem bufWrite_hdr (off n : Nat) (v : Word) : (s.bufWrite off n v).hdr = s.hdr := rfl
@[simp] theorem bufWrite_buf (off n : Nat) (v : Word) : (s.bufWrite off n v).buf = Memory.writeBytes s.buf off (leBytes n v) := rfl
@[simp] theorem bufWrite_pending (off n : Nat) (v : Word) : (s.bufWrite off n v).pending = s.pending := rfl
@[simp] theorem bufWrite_faults (off n : Nat) (v : Word) : (s.bufWrite off n v).faults = s.faults := rfl
@[simp] theorem bufWrite_inbox (off n : Nat) (v : Word) : (s.bufWrite off n v).inbox = s.inbox := rfl
@[simp] theorem bufWrite_reply (off n : Nat) (v : Word) : (s.bufWrite off n v).reply = s.reply := rfl
@[simp] theorem bufWrite_resets (off n : Nat) (v : Word) : (s.bufWrite off n v).resets = s.resets := rfl
@[simp] theorem bufWrite_draws (off n : Nat) (v : Word) : (s.bufWrite off n v).draws = s.draws := rfl

@[simp] theorem setField_cmd (f : HdrField) (v : Word) : (s.setField f v).cmd = s.cmd := rfl
@[simp] theorem setField_done (f : HdrField) (v : Word) : (s.setField f v).done = s.done := rfl
@[simp] theorem setField_errcode (f : HdrField) (v : Word) : (s.setField f v).errcode = s.errcode := rfl
@[simp] theorem setField_errinfo (f : HdrField) (v : Word) : (s.setField f v).errinfo = s.errinfo := rfl
@[simp] theorem setField_len (f : HdrField) (v : Word) : (s.setField f v).len = s.len := rfl
@[simp] theorem setField_arg0 (f : HdrField) (v : Word) : (s.setField f v).arg0 = s.arg0 := rfl
@[simp] theorem setField_arg1 (f : HdrField) (v : Word) : (s.setField f v).arg1 = s.arg1 := rfl
@[simp] theorem setField_result (f : HdrField) (v : Word) : (s.setField f v).result = s.result := rfl
@[simp] theorem setField_hdr (f : HdrField) (v : Word) : (s.setField f v).hdr = s.hdr := rfl
@[simp] theorem setField_buf (f : HdrField) (v : Word) : (s.setField f v).buf = Memory.writeBytes s.buf (fieldOffset f) (leBytes (fieldWidth f) v) := rfl
@[simp] theorem setField_pending (f : HdrField) (v : Word) : (s.setField f v).pending = s.pending := rfl
@[simp] theorem setField_faults (f : HdrField) (v : Word) : (s.setField f v).faults = s.faults := rfl
@[simp] theorem setField_inbox (f : HdrField) (v : Word) : (s.setField f v).inbox = s.inbox := rfl
@[simp] theorem setField_reply (f : HdrField) (v : Word) : (s.setField f v).reply = s.reply := rfl
@[simp] theorem setField_resets (f : HdrField) (v : Word) : (s.setField f v).resets = s.resets := rfl
@[simp] theorem setField_draws (f : HdrField) (v : Word) : (s.setField f v).draws = s.draws := rfl

@[simp] theorem zeroBuf_cmd : (s.zeroBuf).cmd = s.cmd := rfl
@[simp] theorem zeroBuf_done : (s.zeroBuf).done = s.done := rfl
@[simp] theorem zeroBuf_errcode : (s.zeroBuf).errcode = s.errcode := rfl
@[simp] theorem zeroBuf_errinfo : (s.zeroBuf).errinfo = s.errinfo := rfl
@[simp] theorem zeroBuf_len : (s.zeroBuf).len = s.len := rfl
@[simp] theorem zeroBuf_arg0 : (s.zeroBuf).arg0 = s.arg0 := rfl
@[simp] theorem zeroBuf_arg1 : (s.zeroBuf).arg1 = s.arg1 := rfl
@[simp] theorem zeroBuf_result : (s.zeroBuf).result = s.result := rfl
@[simp] theorem zeroBuf_hdr : (s.zeroBuf).hdr = s.hdr := rfl
@[simp] theorem zeroBuf_buf : (s.zeroBuf).buf = zeroPage := rfl
@[simp] theorem zeroBuf_pending : (s.zeroBuf).pending = s.pending := rfl
@[simp] theorem zeroBuf_faults : (s.zeroBuf).faults = s.faults := rfl
@[simp] theorem zeroBuf_inbox : (s.zeroBuf).inbox = s.inbox := rfl
@[simp] theorem zeroBuf_reply : (s.zeroBuf).reply = s.reply := rfl
@[simp] theorem zeroBuf_resets : (s.zeroBuf).resets = s.resets := rfl
@[simp] theorem zeroBuf_draws : (s.zeroBuf).draws = s.draws := rfl

@[simp] theorem resetBlock_cmd : (s.resetBlock).cmd = 0 := rfl
@[simp] theorem resetBlock_done : (s.resetBlock).done = false := rfl
@[simp] theorem resetBlock_errcode : (s.resetBlock).errcode = .noError := rfl
@[simp] theorem resetBlock_errinfo : (s.resetBlock).errinfo = 0 := rfl
@[simp] theorem resetBlock_len : (s.resetBlock).len = 0x00001000 := rfl
@[simp] theorem resetBlock_arg0 : (s.resetBlock).arg0 = 0 := rfl
@[simp] theorem resetBlock_arg1 : (s.resetBlock).arg1 = 0 := rfl
@[simp] theorem resetBlock_result : (s.resetBlock).result = 0 := rfl
@[simp] theorem resetBlock_hdr : (s.resetBlock).hdr = State.reset.hdr := rfl
@[simp] theorem resetBlock_buf : (s.resetBlock).buf = [] := rfl
@[simp] theorem resetBlock_pending : (s.resetBlock).pending = none := rfl
@[simp] theorem resetBlock_faults : (s.resetBlock).faults = s.faults := rfl
@[simp] theorem resetBlock_inbox : (s.resetBlock).inbox = s.inbox := rfl
@[simp] theorem resetBlock_reply : (s.resetBlock).reply = s.reply := rfl
@[simp] theorem resetBlock_resets : (s.resetBlock).resets = s.resets + 1 := rfl
@[simp] theorem resetBlock_draws : (s.resetBlock).draws = s.draws := rfl

/-! What the buffer reads as is unchanged by the updates that leave it alone. -/

@[simp] theorem setResult_bufByte (v : Word) (k : Nat) : (s.setResult v).bufByte k = s.bufByte k := rfl
@[simp] theorem setResult_bytes (v : Word) (k n : Nat) : (s.setResult v).bytes k n = s.bytes k n := rfl
@[simp] theorem setHdr_bufByte (h : Header) (k : Nat) : (s.setHdr h).bufByte k = s.bufByte k := rfl
@[simp] theorem setHdr_bytes (h : Header) (k n : Nat) : (s.setHdr h).bytes k n = s.bytes k n := rfl
@[simp] theorem raise_bufByte (e : ErrCode) (w : Word) (k : Nat) : (s.raise e w).bufByte k = s.bufByte k := rfl
@[simp] theorem raise_bytes (e : ErrCode) (w : Word) (k n : Nat) : (s.raise e w).bytes k n = s.bytes k n := rfl
@[simp] theorem issue_bufByte (c : Word) (k : Nat) : (s.issue c).bufByte k = s.bufByte k := rfl
@[simp] theorem issue_bytes (c : Word) (k n : Nat) : (s.issue c).bytes k n = s.bytes k n := rfl
@[simp] theorem unlatch_bufByte (k : Nat) : (s.unlatch).bufByte k = s.bufByte k := rfl
@[simp] theorem unlatch_bytes (k n : Nat) : (s.unlatch).bytes k n = s.bytes k n := rfl
@[simp] theorem complete_bufByte (k : Nat) : (s.complete).bufByte k = s.bufByte k := rfl
@[simp] theorem complete_bytes (k n : Nat) : (s.complete).bytes k n = s.bytes k n := rfl

end Sys2Proof.Machine.State

/-! What the buffer's updates leave, as one equation. -/

namespace Sys2Proof.Machine.State

theorem bufWrite_frame (s : State) (off n : Nat) (v : Word) :
    s.bufWrite off n v = { s with buf := (s.bufWrite off n v).buf } := rfl

theorem setField_frame (s : State) (f : HdrField) (v : Word) :
    s.setField f v = { s with buf := (s.setField f v).buf } := rfl

theorem zeroBuf_frame (s : State) : s.zeroBuf = { s with buf := s.zeroBuf.buf } := rfl

/-- Updates of the buffer alone, one after the other. -/
theorem bufOnly_trans {s t u : State} (h : t = { s with buf := t.buf }) (h' : u = { t with buf := u.buf }) :
    u = { s with buf := u.buf } := h'.trans (by rw [h])

theorem packHeader_frame (s : State) (h : Header) : s.packHeader h = { s with buf := (s.packHeader h).buf } :=
  bufOnly_trans (bufOnly_trans (bufOnly_trans (bufOnly_trans (bufOnly_trans (setField_frame _ _ _)
    (setField_frame _ _ _)) (setField_frame _ _ _)) (setField_frame _ _ _)) (setField_frame _ _ _)) (setField_frame _ _ _)

end Sys2Proof.Machine.State
end

