-- ==== Sys2Proof/Laws/Memory.lean ====
section
/-! SUPPORT. The laws of the page buffer: read after write, every other byte alone, the canonical form kept, equal
memories are equal lists, and what the one-pass read of many bytes gives. They hold for every list of cells unless a
premise says otherwise. -/

namespace Sys2Proof.Machine

/-! ## Cells -/

@[simp] theorem Memory.lookup_nil (k : Nat) : Memory.lookup [] k = none := rfl

theorem Memory.lookup_cons (a : Nat) (b : Byte) (m : Memory) (k : Nat) :
    Memory.lookup ((a, b) :: m) k = if a = k then some b else Memory.lookup m k := rfl

/-- A read after a write. -/
theorem Memory.lookup_write (m : Memory) (k : Nat) (b : Byte) (j : Nat) :
    Memory.lookup (Memory.write m k b) j = if j = k then some b else Memory.lookup m j := by
  induction m with
  | nil => simp only [Memory.write, Memory.lookup_cons, Memory.lookup_nil, eq_comm]
  | cons c m ih =>
    obtain ⟨a, x⟩ := c
    simp only [Memory.write]
    split_ifs <;> simp only [Memory.lookup_cons, ih] <;> split_ifs <;> first | rfl | omega

/-- A read after a run of writes. -/
theorem Memory.lookup_writeBytes (bs : List Byte) (m : Memory) (k j : Nat) :
    Memory.lookup (Memory.writeBytes m k bs) j =
      if k ≤ j ∧ j < k + bs.length then bs[j - k]? else Memory.lookup m j := by
  induction bs generalizing m k with
  | nil => rw [Memory.writeBytes, if_neg (by simp)]
  | cons b bs ih =>
    simp only [Memory.writeBytes, ih, Memory.lookup_write, List.length_cons]
    by_cases hk : j = k
    · subst hk; simp
    · by_cases h : k + 1 ≤ j ∧ j < k + 1 + bs.length
      · rw [if_pos h, if_pos (by omega), show j - k = (j - (k + 1)) + 1 by omega, List.getElem?_cons_succ]
      · rw [if_neg h, if_neg hk, if_neg (by omega)]

/-- A read of a listing of consecutive bytes. -/
theorem Memory.lookup_ofBytes (bs : List Byte) (k j : Nat) :
    Memory.lookup (Memory.ofBytes k bs) j = if k ≤ j then bs[j - k]? else none := by
  induction bs generalizing k with
  | nil => simp [Memory.ofBytes]
  | cons b bs ih =>
    simp only [Memory.ofBytes, Memory.lookup_cons, ih]
    by_cases hk : k = j
    · subst hk; simp
    · by_cases h : k + 1 ≤ j
      · rw [if_neg hk, if_pos h, if_pos (by omega), show j - k = (j - (k + 1)) + 1 by omega,
          List.getElem?_cons_succ]
      · rw [if_neg hk, if_neg h, if_neg (by omega)]

/-! ## The canonical form -/

theorem Memory.wfFrom_cons (lo a : Nat) (b : Byte) (m : Memory) :
    Memory.wfFrom lo ((a, b) :: m) = true ↔
      lo ≤ a ∧ a < Config.bufCap ∧ Memory.wfFrom (a + 1) m = true := by
  simp [Memory.wfFrom, and_assoc]

theorem Memory.wfFrom_mono {lo lo' : Nat} (h : lo' ≤ lo) {m : Memory} (hm : Memory.wfFrom lo m = true) :
    Memory.wfFrom lo' m = true := by
  cases m with
  | nil => rfl
  | cons c m =>
    obtain ⟨a, b⟩ := c
    rw [Memory.wfFrom_cons] at hm ⊢
    exact ⟨by omega, hm.2⟩

/-- A canonical memory lists nothing below its bound. -/
theorem Memory.lookup_of_wfFrom {lo : Nat} {m : Memory} (hm : Memory.wfFrom lo m = true) {k : Nat} (hk : k < lo) :
    Memory.lookup m k = none := by
  induction m generalizing lo with
  | nil => rfl
  | cons c m ih =>
    obtain ⟨a, b⟩ := c
    rw [Memory.wfFrom_cons] at hm
    rw [Memory.lookup_cons, if_neg (by omega)]
    exact ih hm.2.2 (by omega)

/-- One write keeps the canonical form. -/
theorem Memory.write_wfFrom {lo : Nat} {m : Memory} (hm : Memory.wfFrom lo m = true) {k : Nat} (hlo : lo ≤ k)
    (hk : k < Config.bufCap) (b : Byte) : Memory.wfFrom lo (Memory.write m k b) = true := by
  induction m generalizing lo with
  | nil => exact (Memory.wfFrom_cons _ _ _ _).2 ⟨hlo, hk, rfl⟩
  | cons c m ih =>
    obtain ⟨a, x⟩ := c
    rw [Memory.wfFrom_cons] at hm
    simp only [Memory.write]
    split_ifs with h1 h2
    · exact (Memory.wfFrom_cons _ _ _ _).2 ⟨hlo, hk, (Memory.wfFrom_cons _ _ _ _).2 ⟨h1, hm.2.1, hm.2.2⟩⟩
    · subst h2; exact (Memory.wfFrom_cons _ _ _ _).2 ⟨hlo, hk, hm.2.2⟩
    · exact (Memory.wfFrom_cons _ _ _ _).2 ⟨hm.1, hm.2.1, ih hm.2.2 (by omega)⟩

/-- A run of writes inside BUF keeps the canonical form. -/
theorem Memory.writeBytes_wf {m : Memory} (hm : Memory.wf m = true) (bs : List Byte) {k : Nat}
    (hk : k + bs.length ≤ Config.bufCap) : Memory.wf (Memory.writeBytes m k bs) = true := by
  induction bs generalizing m k with
  | nil => exact hm
  | cons b bs ih =>
    rw [List.length_cons] at hk
    exact ih (Memory.write_wfFrom hm (Nat.zero_le k) (by omega) b) (by omega)

theorem Memory.ofBytes_wfFrom (bs : List Byte) {k : Nat} (hk : k + bs.length ≤ Config.bufCap) :
    Memory.wfFrom k (Memory.ofBytes k bs) = true := by
  induction bs generalizing k with
  | nil => rfl
  | cons b bs ih =>
    rw [List.length_cons] at hk
    exact (Memory.wfFrom_cons _ _ _ _).2 ⟨le_refl k, by omega, ih (by omega)⟩

/-- Canonical memories that list the same bytes are the same list. -/
theorem Memory.eq_of_lookup_eq {lo : Nat} {m m' : Memory} (hm : Memory.wfFrom lo m = true)
    (hm' : Memory.wfFrom lo m' = true) (h : ∀ k, Memory.lookup m k = Memory.lookup m' k) : m = m' := by
  induction m generalizing lo m' with
  | nil =>
    cases m' with
    | nil => rfl
    | cons c m' =>
      have := h c.1
      simp [Memory.lookup] at this
  | cons c m ih =>
    obtain ⟨a, b⟩ := c
    cases m' with
    | nil => have := h a; simp [Memory.lookup] at this
    | cons c' m' =>
      obtain ⟨a', b'⟩ := c'
      rw [Memory.wfFrom_cons] at hm hm'
      have below {n : Nat} {x : Memory} (hx : Memory.wfFrom (n + 1) x = true) {j : Nat} (hj : j ≤ n) :
          Memory.lookup x j = none := Memory.lookup_of_wfFrom hx (by omega)
      have haa : a = a' := by
        have h1 := h a
        have h2 := h a'
        simp only [Memory.lookup_cons] at h1 h2
        by_contra hne
        rw [if_pos trivial, if_neg (Ne.symm hne)] at h1
        rw [if_pos trivial, if_neg hne] at h2
        rcases Nat.lt_or_gt_of_ne hne with hlt | hgt
        · rw [below hm'.2.2 hlt.le] at h1; cases h1
        · rw [below hm.2.2 (Nat.le_of_lt hgt)] at h2; cases h2
      subst haa
      have hb := h a
      simp only [Memory.lookup_cons, if_true, Option.some.injEq] at hb
      subst hb
      refine congrArg _ (ih hm.2.2 hm'.2.2 fun k => ?_)
      have hk := h k
      simp only [Memory.lookup_cons] at hk
      split_ifs at hk with hak
      · rw [below hm.2.2 hak.ge, below hm'.2.2 hak.ge]
      · exact hk

/-! ## Reading many bytes -/

/-- The one-pass read gives the listed byte, else the free one, at each offset, for every list of cells. -/
theorem Memory.bytesFrom_eq (free : Nat → Byte) (n : Nat) (m : Memory) (k : Nat) :
    Memory.bytesFrom free m k n =
      (List.range n).map fun i => (Memory.lookup m (k + i)).getD (free (k + i)) := by
  induction n generalizing m k with
  | zero => cases m <;> rfl
  | succ n ih =>
    rw [List.range_succ_eq_map, List.map_cons, List.map_map]
    cases m with
    | nil =>
      rw [Memory.bytesFrom, ih]
      simp [Function.comp_def, Nat.add_assoc, Nat.add_comm 1]
    | cons c m =>
      obtain ⟨a, b⟩ := c
      rw [Memory.bytesFrom]
      split_ifs with h
      · subst h
        rw [ih]
        refine congrArg₂ List.cons (by simp [Memory.lookup_cons]) (List.map_congr_left fun i _ => ?_)
        simp only [Function.comp_apply, Memory.lookup_cons]
        rw [if_neg (by omega), show a + 1 + i = a + i.succ by omega]
      · rw [ih]
        refine congrArg₂ List.cons (by simp [Memory.lookup_cons, h]) (List.map_congr_left fun i _ => ?_)
        simp only [Function.comp_apply]
        rw [show k + 1 + i = k + i.succ by omega]

/-- Dropping the leading cells below an offset does not change what is listed from it on. -/
theorem Memory.lookup_dropWhile (m : Memory) {k j : Nat} (h : k ≤ j) :
    Memory.lookup (m.dropWhile fun c => decide (c.1 < k)) j = Memory.lookup m j := by
  induction m with
  | nil => rfl
  | cons c m ih =>
    obtain ⟨a, b⟩ := c
    rw [List.dropWhile_cons]
    split_ifs with hc
    · rw [ih, Memory.lookup_cons, if_neg]
      simp only [decide_eq_true_eq] at hc
      omega
    · rfl

/-- `BUF[off..off+n)` byte by byte. -/
theorem State.bytes_eq (s : State) (off n : Nat) :
    s.bytes off n = (List.range n).map fun i => s.bufByte (off + i) := by
  rw [State.bytes, Memory.bytesFrom_eq]
  refine List.map_congr_left fun i _ => ?_
  rw [Memory.lookup_dropWhile _ (Nat.le_add_right off i), State.bufByte]

@[simp] theorem State.bytes_length (s : State) (off n : Nat) : (s.bytes off n).length = n := by
  simp [State.bytes_eq]

/-- Two states whose buffers read alike in a range have the same bytes there. -/
theorem State.bytes_congr {s t : State} {off n : Nat} (h : ∀ k, off ≤ k → k < off + n → s.bufByte k = t.bufByte k) :
    s.bytes off n = t.bytes off n := by
  rw [State.bytes_eq, State.bytes_eq]
  refine List.map_congr_left fun i hi => h _ (Nat.le_add_right off i) ?_
  rw [List.mem_range] at hi
  omega

/-! ## Writing words -/

@[simp] theorem leBytes_length (n : Nat) (v : Word) : (leBytes n v).length = n := by
  induction n generalizing v with
  | zero => rfl
  | succ n ih => simp [leBytes, ih]

theorem leBytes_getElem? (n : Nat) (v : Word) (i : Nat) (h : i < n) :
    (leBytes n v)[i]? = some ((v >>> (8 * i)).setWidth 8) := by
  induction n generalizing v i with
  | zero => omega
  | succ n ih =>
    cases i with
    | zero => simp [leBytes]
    | succ i =>
      rw [leBytes, List.getElem?_cons_succ, ih _ _ (by omega), ← BitVec.shiftRight_add,
        show 8 + 8 * i = 8 * (i + 1) by omega]

/-- `BufWrite`, byte by byte: the `n` bytes hold the word, every other byte of BUF reads as before. -/
theorem State.bufByte_bufWrite (s : State) (off n : Nat) (v : Word) (k : Nat) :
    (s.bufWrite off n v).bufByte k =
      if off ≤ k ∧ k < off + n then (v >>> (8 * (k - off))).setWidth 8 else s.bufByte k := by
  rw [State.bufByte, State.bufWrite_buf, State.bufWrite_resets, Memory.lookup_writeBytes, leBytes_length]
  split_ifs with h
  · rw [leBytes_getElem? n v _ (by omega), Option.getD_some]
  · rfl

theorem State.bufByte_setField (s : State) (f : HdrField) (v : Word) (k : Nat) :
    (s.setField f v).bufByte k =
      if fieldOffset f ≤ k ∧ k < fieldOffset f + fieldWidth f then (v >>> (8 * (k - fieldOffset f))).setWidth 8
      else s.bufByte k := s.bufByte_bufWrite _ _ _ _

theorem State.bufByte_zeroBuf (s : State) (k : Nat) :
    s.zeroBuf.bufByte k = if k < Config.bufCap then 0 else Config.resetByte s.resets k := by
  rw [State.bufByte, State.zeroBuf_buf, State.zeroBuf_resets, zeroPage, Memory.lookup_ofBytes, if_pos (Nat.zero_le k)]
  split_ifs with h
  · simp [h]
  · simp [h]

/-- `BufWrite` inside BUF keeps the canonical form. -/
theorem State.bufWrite_wf {s : State} (hs : Memory.wf s.buf = true) {off n : Nat} (h : off + n ≤ Config.bufCap)
    (v : Word) : Memory.wf (s.bufWrite off n v).buf = true :=
  Memory.writeBytes_wf hs _ (by rwa [leBytes_length])

theorem State.setField_wf {s : State} (hs : Memory.wf s.buf = true) (f : HdrField) (v : Word) :
    Memory.wf (s.setField f v).buf = true :=
  State.bufWrite_wf hs (by cases f <;> decide) v

theorem State.zeroBuf_wf (s : State) : Memory.wf s.zeroBuf.buf = true := by
  rw [State.zeroBuf_buf, zeroPage]
  exact Memory.ofBytes_wfFrom _ (by simp)

/-- Nothing is listed after reset. -/
theorem State.reset_wf : Memory.wf State.reset.buf = true := rfl

/-! ## Reading words -/

theorem leWord_cons (b : Byte) (bs : List Byte) : leWord (b :: bs) = b.setWidth 32 ||| (leWord bs <<< 8) := rfl

/-- A word of one byte. -/
theorem State.bufRead_one (s : State) (k : Nat) : s.bufRead k 1 = (s.bufByte k).setWidth 32 := by
  simp [State.bufRead, State.bytes_eq, leWord]

/-- Words read alike where the buffers read alike. -/
theorem State.bufRead_congr {s t : State} {off n : Nat}
    (h : ∀ k, off ≤ k → k < off + n → s.bufByte k = t.bufByte k) : s.bufRead off n = t.bufRead off n :=
  congrArg leWord (State.bytes_congr h)

end Sys2Proof.Machine
end

