-- ==== Sys2Proof/Laws/Crc.lean ====
section
/-! SUPPORT. The CRC's recursion equations (42_checksum.md R152, R158). -/

namespace Sys2Proof.Machine

@[simp] theorem settled_eq {α : Type} (c : Word) (f : Word → α) : settled c f = f c := by
  unfold settled
  split
  · next h => exact congrArg f (BitVec.eq_of_toNat_eq h.symm)
  · next n h =>
    have hc : BitVec.ofNat 32 (n + 1) = c := by rw [← Nat.succ_eq_add_one, ← h, BitVec.ofNat_toNat, BitVec.setWidth_eq]
    rw [hc]

@[simp] theorem crcUpd_nil (c : Word) : crcUpd c [] = c := rfl

@[simp] theorem crcUpd_cons (c : Word) (b : Byte) (m : List Byte) :
    crcUpd c (b :: m) = crcUpd (crcByte c b) m := by rw [crcUpd, settled_eq]

/-- A CRC taken in two parts (42_checksum.md R158). -/
theorem crcUpd_append (c : Word) (m m' : List Byte) : crcUpd c (m ++ m') = crcUpd (crcUpd c m) m' := by
  induction m generalizing c with
  | nil => rfl
  | cons b m ih => simp only [List.cons_append, crcUpd_cons, ih]

theorem crcUpd_eq_foldl (c : Word) (m : List Byte) : crcUpd c m = m.foldl crcByte c := by
  induction m generalizing c with
  | nil => rfl
  | cons b m ih => rw [crcUpd_cons, ih, List.foldl_cons]

@[simp] theorem crcBits_zero (c : Word) : crcBits 0 c = c := rfl

@[simp] theorem crcBits_succ (n : Nat) (c : Word) : crcBits (n + 1) c = crcBits n (crcBit c) := rfl

/-- The page checksum over the bytes of BUF, one by one (42_checksum.md R155). -/
theorem State.pageChecksum_eq (s : State) :
    s.pageChecksum = crc32 (((List.range 8).map fun i => s.bufByte (0 + i)) ++
      (List.range 4084).map fun i => s.bufByte (12 + i)) := by
  rw [State.pageChecksum, State.bytes_eq, State.bytes_eq]
  rfl

/-- LEN is a whole page. -/
theorem State.wholePage_iff (s : State) : s.wholePage = true ↔ s.len = 4096#32 := by
  rw [State.wholePage, State.length, beq_iff_eq, ← BitVec.toNat_inj]
  rfl

end Sys2Proof.Machine
end

