-- ==== Sys2Proof/Laws/PerInstr.lean ====
section
/-! SUPPORT. Statements made per instruction: the family EncodingShape, about an instruction's command word. -/

namespace Sys2Proof.Laws.EncodingShape

/-- The command word of `i` is legal by 30_encoding.md R87's own checks, and it keeps its opcode, SEL and V. -/
def Statement (i : Instr) : Prop :=
  (CmdFields.ofWord (encode i)).wellFormed = true ∧ CmdFields.ofWord (encode i) = i.fields

theorem crc32 : Statement .crc32 := by unfold Statement; decide
theorem pcsum : Statement .pcsum := by unfold Statement; decide
theorem calcChecksum : Statement .calcChecksum := by unfold Statement; decide
theorem verify : Statement .verify := by unfold Statement; decide
theorem iscorr : Statement .iscorr := by unfold Statement; decide
theorem pageNew : Statement .pageNew := by unfold Statement; decide
theorem hdrDefault : Statement .hdrDefault := by unfold Statement; decide
theorem hdrNew : Statement .hdrNew := by unfold Statement; decide
theorem hdrPack : Statement .hdrPack := by unfold Statement; decide
theorem hdrUnpack : Statement .hdrUnpack := by unfold Statement; decide
theorem fldGetPageId : Statement .fldGetPageId := by unfold Statement; decide
theorem fldGetPageType : Statement .fldGetPageType := by unfold Statement; decide
theorem fldGetFlags : Statement .fldGetFlags := by unfold Statement; decide
theorem fldGetFreeSpace : Statement .fldGetFreeSpace := by unfold Statement; decide
theorem fldGetChecksum : Statement .fldGetChecksum := by unfold Statement; decide
theorem fldGetLsn : Statement .fldGetLsn := by unfold Statement; decide
theorem fldSetPageId : Statement .fldSetPageId := by unfold Statement; decide
theorem fldSetPageType : Statement .fldSetPageType := by unfold Statement; decide
theorem fldSetFlags : Statement .fldSetFlags := by unfold Statement; decide
theorem fldSetFreeSpace : Statement .fldSetFreeSpace := by unfold Statement; decide
theorem fldSetChecksum : Statement .fldSetChecksum := by unfold Statement; decide
theorem fldSetLsn : Statement .fldSetLsn := by unfold Statement; decide
theorem getDirty : Statement .getDirty := by unfold Statement; decide
theorem setDirty (v : Bool) : Statement (.setDirty v) := by unfold Statement; cases v <;> decide
theorem getPinned : Statement .getPinned := by unfold Statement; decide
theorem setPinned (v : Bool) : Statement (.setPinned v) := by unfold Statement; cases v <;> decide
theorem typeDecode : Statement .typeDecode := by unfold Statement; decide
theorem isBtree : Statement .isBtree := by unfold Statement; decide
theorem isFreelist : Statement .isFreelist := by unfold Statement; decide
theorem isOverflow : Statement .isOverflow := by unfold Statement; decide
theorem isData : Statement .isData := by unfold Statement; decide
theorem isMeta : Statement .isMeta := by unfold Statement; decide

end Sys2Proof.Laws.EncodingShape
end

