-- ==== Sys2Proof/Laws/Step.lean ====
section
/-! SUPPORT. What the shared operations around a command can do: the engine step, a host access, the recording of
faults, and which step takes which event. -/

namespace Sys2Proof.Machine

/-! ## The fault set -/

/-- Recording a fault adds it and nothing else. -/
theorem mem_recordFault (f g : HostFault) (gs : List HostFault) :
    g ∈ recordFault f gs ↔ g = f ∨ g ∈ gs := by
  induction gs with
  | nil => simp [recordFault]
  | cons h gs ih =>
    simp only [recordFault]
    split_ifs with h1 h2
    · subst h1; simp
    · simp
    · simp only [List.mem_cons, ih]; tauto

theorem mem_recordFaults (fs : List HostFault) (g : HostFault) (gs : List HostFault) :
    g ∈ recordFaults fs gs ↔ g ∈ fs ∨ g ∈ gs := by
  induction fs generalizing gs with
  | nil => simp [recordFaults]
  | cons f fs ih => simp only [recordFaults, ih, mem_recordFault, List.mem_cons]; tauto

/-- The listing order in words. -/
theorem HostFault.before_iff (f g : HostFault) :
    f.before g = true ↔ f.key.1 < g.key.1 ∨ (f.key.1 = g.key.1 ∧
      (f.key.2.1 < g.key.2.1 ∨ (f.key.2.1 = g.key.2.1 ∧ f.key.2.2 < g.key.2.2))) := by
  simp [HostFault.before]

theorem HostFault.key_injective {f g : HostFault} (h : f.key = g.key) : f = g := by
  cases f <;> cases g <;> simp_all [HostFault.key]

theorem HostFault.before_trans {f g h : HostFault} (h1 : f.before g = true) (h2 : g.before h = true) :
    f.before h = true := by
  rw [HostFault.before_iff] at *
  omega

/-- Two different faults stand in one order or the other. -/
theorem HostFault.before_or_before {f g : HostFault} (h : f ≠ g) : f.before g = true ∨ g.before f = true := by
  have hk : ¬(f.key.1 = g.key.1 ∧ f.key.2.1 = g.key.2.1 ∧ f.key.2.2 = g.key.2.2) := fun ⟨h1, h2, h3⟩ =>
    h (HostFault.key_injective (Prod.ext h1 (Prod.ext h2 h3)))
  rw [HostFault.before_iff, HostFault.before_iff]
  omega

theorem faultsOrdered_cons (f : HostFault) (gs : List HostFault) :
    faultsOrdered (f :: gs) = true ↔ (∀ g ∈ gs, f.before g = true) ∧ faultsOrdered gs = true := by
  simp [faultsOrdered]

/-- Recording keeps the fault set's listing in order. -/
theorem recordFault_ordered (f : HostFault) {gs : List HostFault} (h : faultsOrdered gs = true) :
    faultsOrdered (recordFault f gs) = true := by
  induction gs with
  | nil => rfl
  | cons g gs ih =>
    have hg := (faultsOrdered_cons g gs).1 h
    simp only [recordFault]
    split_ifs with h1 h2
    · exact h
    · refine (faultsOrdered_cons _ _).2 ⟨fun x hx => ?_, h⟩
      rcases List.mem_cons.1 hx with rfl | hx
      · exact h2
      · exact HostFault.before_trans h2 (hg.1 x hx)
    · refine (faultsOrdered_cons _ _).2 ⟨fun x hx => ?_, ih hg.2⟩
      rcases (mem_recordFault _ _ _).1 hx with rfl | hx
      · exact (HostFault.before_or_before h1).resolve_left h2
      · exact hg.1 x hx

theorem recordFaults_ordered (fs : List HostFault) {gs : List HostFault} (h : faultsOrdered gs = true) :
    faultsOrdered (recordFaults fs gs) = true := by
  induction fs generalizing gs with
  | nil => exact h
  | cons f fs ih => exact ih (recordFault_ordered f h)

/-! ## The engine -/

@[simp] theorem thenComplete_next (t : State) : thenComplete (.next t) = .next t.complete := rfl

/-- A command that completes, completed. -/
theorem thenComplete_eq_next {o : Host.Outcome State Fault Refusal} {t : State} (h : thenComplete o = .next t) :
    ∃ u, o = .next u ∧ t = u.complete := by
  cases o with
  | next u => exact ⟨u, rfl, by cases h; rfl⟩
  | fault r => cases h
  | refused r => cases h

theorem perform_ok {c : Word} {i : Instr} (h : decode c = .ok i) (s : State) :
    perform c s = thenComplete (exec i s.unlatch) := by simp only [perform, h]

theorem perform_error {c : Word} {e : DecodeError} (h : decode c = .error e) (s : State) :
    perform c s = .next (s.unlatch.raise .illegalCommand c).complete := by simp only [perform, h]

/-- What an engine step can do. -/
theorem engineStep_cases {s t : State} (h : engineStep s = .next t) :
    (s.pending = none ∧ t = s) ∨
    (∃ c i u, s.pending = some c ∧ decode c = .ok i ∧ exec i s.unlatch = .next u ∧ t = u.complete) ∨
    (∃ c e, s.pending = some c ∧ decode c = .error e ∧ t = (s.unlatch.raise .illegalCommand c).complete) := by
  rw [engineStep] at h
  split at h
  · next c hc =>
    cases hd : decode c with
    | ok i =>
      rw [perform_ok hd] at h
      obtain ⟨u, hu, rfl⟩ := thenComplete_eq_next h
      exact .inr (.inl ⟨c, i, u, hc, hd, hu, rfl⟩)
    | error e =>
      rw [perform_error hd] at h
      cases h
      exact .inr (.inr ⟨c, e, hc, hd, rfl⟩)
  · next hc => cases h; exact .inl ⟨hc, rfl⟩

/-! ## The host port -/

/-- What a host access can do. -/
theorem hostAccess_cases {s t : State} {a : Access} (h : hostAccess s a = .next t) :
    a.addr < Config.windowSize ∧
    ((accessFaults s a = [] ∧ t = admittedAccess s a) ∨
     (accessFaults s a ≠ [] ∧
      t = { s with faults := recordFaults (accessFaults s a) s.faults, reply := some .busError })) := by
  rw [hostAccess] at h
  split_ifs at h with ha
  refine ⟨ha, ?_⟩
  split at h
  · next hf => cases h; exact .inl ⟨hf, rfl⟩
  · next f fs hf => cases h; exact .inr ⟨by rw [hf]; exact List.cons_ne_nil _ _, by rw [hf]⟩

/-- The faults an access records: the map's, and the busy write's (70_reset_and_hazards.md R241). -/
theorem mem_accessFaults (s : State) (a : Access) (f : HostFault) :
    f ∈ accessFaults s a ↔ mapFault a = some f ∨
      (a.dir.isWrite = true ∧ s.busy = true ∧ f = .writeWhileBusy a.addr) := by
  rw [accessFaults, List.mem_append, Option.mem_toList]
  cases a.dir.isWrite <;> cases s.busy <;> simp

/-- The offset of a register leads back to it (10_state.md R21). -/
theorem Reg.ofOffset_offset (r : Reg) : Reg.ofOffset r.offset = some r := by cases r <;> rfl

/-- A register is found at its own offset only. -/
theorem Reg.offset_of_ofOffset {a : Nat} {r : Reg} (h : Reg.ofOffset a = some r) : r.offset = a := by
  unfold Reg.ofOffset at h
  split at h <;> cases h <;> rfl

/-- An aligned offset without a register lies past the last one (20_memory.md R66). -/
theorem Reg.le_of_ofOffset_none {addr : Nat} (h : Reg.ofOffset addr = none) (h3 : addr % 4 = 0) : 0x3C ≤ addr := by
  by_contra hlt
  have : addr = 0 ∨ addr = 4 ∨ addr = 8 ∨ addr = 12 ∨ addr = 16 ∨ addr = 20 ∨ addr = 24 ∨
      addr = 28 ∨ addr = 32 ∨ addr = 36 ∨ addr = 40 ∨ addr = 44 ∨ addr = 48 ∨ addr = 52 ∨ addr = 56 := by omega
  rcases this with q | q | q | q | q | q | q | q | q | q | q | q | q | q | q <;> subst q <;>
    simp [Reg.ofOffset] at h
/-- Where a register lies, and which registers are RO (10_state.md R21). -/
theorem Reg.spec_of_ofOffset {addr : Nat} {r} (h : Reg.ofOffset addr = some r) : addr < 0x3C ∧ addr % 4 = 0 ∧ (r.readOnly = true ↔ (addr = 0 ∨ addr = 4 ∨ addr = 12 ∨ addr = 16 ∨ addr = 32)) := by
  rw [← Reg.offset_of_ofOffset h]; cases r <;> decide
/-- The map's fault, case by case (20_memory.md R60, R62, R65, R66). -/
theorem mapFault_iff (a : Access) (f : HostFault) : mapFault a = some f ↔ (f = .busMisaligned a.addr a.width ∧
    ((a.addr < 0x1000 ∧ (a.width ≠ 4 ∨ a.addr % 4 ≠ 0)) ∨
     (0x1000 ≤ a.addr ∧ ((a.width ≠ 1 ∧ a.width ≠ 2 ∧ a.width ≠ 4) ∨ a.addr % a.width ≠ 0)))) ∨
  (f = .busUnmapped a.addr ∧ a.width = 4 ∧ a.addr % 4 = 0 ∧ 0x03C ≤ a.addr ∧ a.addr < 0x1000) ∨
  (f = .busReadonly a.addr ∧ a.dir.isWrite = true ∧ a.width = 4 ∧ (a.addr = 0 ∨ a.addr = 4 ∨ a.addr = 12 ∨ a.addr = 16 ∨ a.addr = 32)) := by
  rw [mapFault]
  by_cases h1 : a.addr < Config.bufWindow
  · rw [if_pos h1]
    replace h1 : a.addr < 4096 := h1
    by_cases h2 : a.width ≠ 4 ∨ a.addr % 4 ≠ 0
    · rw [if_pos h2, Option.some.injEq, eq_comm]
      exact ⟨fun h => .inl ⟨h, .inl ⟨h1, h2⟩⟩, by rintro (⟨h, _⟩ | ⟨h, h3, h4, _⟩ | ⟨h, _, h3, h4⟩) <;> [exact h; omega; omega]⟩
    · rw [if_neg h2]
      cases hr : Reg.ofOffset a.addr with
      | none =>
        have h0 := Reg.le_of_ofOffset_none hr (by omega)
        dsimp only
        rw [Option.some.injEq, eq_comm]
        exact ⟨fun h => .inr (.inl ⟨h, by omega, by omega, h0, h1⟩), by rintro (⟨h, _⟩ | ⟨h, h3, h4, _⟩ | ⟨h, _, h3, h4⟩) <;> [omega; exact h; omega]⟩
      | some r =>
        obtain ⟨hb, hm, hro⟩ := Reg.spec_of_ofOffset hr
        dsimp only
        by_cases hc : (a.dir.isWrite && r.readOnly) = true
        · rw [if_pos hc, Option.some.injEq, eq_comm]
          rw [Bool.and_eq_true] at hc
          exact ⟨fun h => .inr (.inr ⟨h, hc.1, by omega, hro.1 hc.2⟩), by rintro (⟨h, _⟩ | ⟨h, h3, h4, _⟩ | ⟨h, _, h3, h4⟩) <;> [omega; omega; exact h]⟩
        · rw [if_neg hc]
          refine ⟨fun h => (by cases h), ?_⟩
          rintro (⟨h, _⟩ | ⟨h, h3, h4, _⟩ | ⟨h, q, h3, h4⟩) <;> [omega; omega; exact absurd (by rw [Bool.and_eq_true]; exact ⟨q, hro.2 h4⟩) hc]
  · rw [if_neg h1]
    replace h1 : ¬ a.addr < 4096 := h1
    by_cases h2 : (a.width = 1 ∨ a.width = 2 ∨ a.width = 4) ∧ a.addr % a.width = 0
    · rw [if_pos h2]
      refine ⟨fun h => (by cases h), ?_⟩
      rintro (⟨h, h3⟩ | ⟨h, h3, h4, _⟩ | ⟨h, _, h3, h4⟩) <;> omega
    · rw [if_neg h2, Option.some.injEq, eq_comm]
      refine ⟨fun h => .inl ⟨h, .inr ⟨by omega, ?_⟩⟩, by rintro (⟨h, _⟩ | ⟨h, h3, h4, _⟩ | ⟨h, _, h3, h4⟩) <;> [exact h; omega; omega]⟩
      by_cases hw : a.width = 1 ∨ a.width = 2 ∨ a.width = 4
      · exact .inr fun h => h2 ⟨hw, h⟩
      · exact .inl (by omega)

/-! ## Which step takes which event -/

theorem step_nil {s : State} (h : s.inbox = []) : step s = engineStep s := by rw [step, nextStep, h]

theorem step_cons {s : State} {e : Event} {rest : List Event} (h : s.inbox = e :: rest) :
    step s = handleEvent { s with inbox := rest } e := by rw [step, nextStep, h]

end Sys2Proof.Machine
end

