-- ==== Sys2Proof/Tests/Slice0.lean ====
section
/-! SUPPORT. Tests of the model against the worked values of spec/95_test_vectors.md, and for each obligation with
hypotheses a concrete state and operands that meet them. Expected values come from the vectors named, never from the
model. -/

namespace Sys2Proof.Tests

open Sys2Proof Sys2Proof.Machine

/-! ## Small states -/

/-- The state a step answered, if it answered one. -/
def got (o : Host.Outcome State Fault Refusal) : Option State :=
  match o with
  | .next t => some t
  | .fault _ => none
  | .refused _ => none

/-- After reset, the first bytes of BUF written with these. -/
def withBytes (bs : List Byte) : State := { State.reset with buf := Memory.ofBytes 0 bs }

/-- The new page of 95_test_vectors.md. -/
def newPage : State := (State.reset.zeroBuf.bufWrite 4 1 0x02).bufWrite 6 2 0x0FF0

/-- The page header of V-HD-06 in BUF. -/
def packed : State :=
  withBytes [0x78, 0x56, 0x34, 0x12, 0x05, 0x03, 0x00, 0x01, 0xBE, 0xBA, 0xFE, 0xCA, 0x2A, 0x00, 0x00, 0x00]

/-- The header of V-HD-06 in the staging registers. -/
def vHeader : Header :=
  { pageId := 0x12345678, pageType := 0x05, flags := 0x03, freeSpace := 0x0100, checksum := 0xCAFEBABE, lsn := 0x2A }

/-- After reset, with this in ARG0 and RESULT holding 0x55. -/
def withArg (v : Word) : State := { State.reset with arg0 := v, result := 0x55 }

/-- The host about to make one access. -/
def host1 (s : State) (a n : Nat) (d : Dir) : State := { s with inbox := [.host { addr := a, width := n, dir := d }] }

/-- What one step answers to the host. -/
def answer (s : State) : Option Reply := (got (step s)).bind (·.reply)

/-- The fault set after one step. -/
def faultsAfter (s : State) : Option (List HostFault) := (got (step s)).map (·.faults)

/-- A command, given by its word, in flight. -/
def busyWith (s : State) (c : Word) : State := { s.issue c with inbox := [.engine] }

/-! ## Decoding, the words written out by 30_encoding.md R81 (Z2, V, Z1, SEL, OP), R84, R85 -/

theorem test_decode_checksum :
    decode 0b000000000000000_0_0000_0000_00000001 = .ok .crc32 ∧
    decode 0b000000000000000_0_0000_0000_00000010 = .ok .pcsum ∧
    decode 0b000000000000000_0_0000_0000_00000011 = .ok .calcChecksum := by decide

theorem test_decode_page :
    decode 0b000000000000000_0_0000_0000_00000100 = .ok .verify ∧
    decode 0b000000000000000_0_0000_0000_00000101 = .ok .iscorr ∧
    decode 0b000000000000000_0_0000_0000_00001000 = .ok .pageNew := by decide

theorem test_decode_header :
    decode 0b000000000000000_0_0000_0000_00010000 = .ok .hdrDefault ∧
    decode 0b000000000000000_0_0000_0000_00010001 = .ok .hdrNew ∧
    decode 0b000000000000000_0_0000_0000_00010010 = .ok .hdrPack ∧
    decode 0b000000000000000_0_0000_0000_00010011 = .ok .hdrUnpack := by decide

theorem test_decode_fld_get :
    decode 0b000000000000000_0_0000_0000_00010100 = .ok .fldGetPageId ∧
    decode 0b000000000000000_0_0000_0001_00010100 = .ok .fldGetPageType ∧
    decode 0b000000000000000_0_0000_0010_00010100 = .ok .fldGetFlags ∧
    decode 0b000000000000000_0_0000_0011_00010100 = .ok .fldGetFreeSpace ∧
    decode 0b000000000000000_0_0000_0100_00010100 = .ok .fldGetChecksum ∧
    decode 0b000000000000000_0_0000_0101_00010100 = .ok .fldGetLsn := by decide

theorem test_decode_fld_set :
    decode 0b000000000000000_0_0000_0000_00010101 = .ok .fldSetPageId ∧
    decode 0b000000000000000_0_0000_0001_00010101 = .ok .fldSetPageType ∧
    decode 0b000000000000000_0_0000_0010_00010101 = .ok .fldSetFlags ∧
    decode 0b000000000000000_0_0000_0011_00010101 = .ok .fldSetFreeSpace ∧
    decode 0b000000000000000_0_0000_0100_00010101 = .ok .fldSetChecksum ∧
    decode 0b000000000000000_0_0000_0101_00010101 = .ok .fldSetLsn := by decide

theorem test_decode_flags :
    decode 0b000000000000000_0_0000_0000_00011000 = .ok .getDirty ∧
    decode 0b000000000000000_0_0000_0000_00011001 = .ok (.setDirty false) ∧
    decode 0b000000000000000_1_0000_0000_00011001 = .ok (.setDirty true) ∧
    decode 0b000000000000000_0_0000_0000_00011010 = .ok .getPinned ∧
    decode 0b000000000000000_0_0000_0000_00011011 = .ok (.setPinned false) ∧
    decode 0b000000000000000_1_0000_0000_00011011 = .ok (.setPinned true) := by decide

theorem test_decode_pagetype :
    decode 0b000000000000000_0_0000_0000_00100000 = .ok .typeDecode ∧
    decode 0b000000000000000_0_0000_0000_00100001 = .ok .isBtree ∧
    decode 0b000000000000000_0_0000_0000_00100010 = .ok .isFreelist ∧
    decode 0b000000000000000_0_0000_0000_00100011 = .ok .isOverflow ∧
    decode 0b000000000000000_0_0000_0000_00100100 = .ok .isData ∧
    decode 0b000000000000000_0_0000_0000_00100101 = .ok .isMeta := by decide

/-- V-EN-01 to V-EN-04: every OP in a gap of the map. -/
theorem test_decode_reserved_ops :
    ([0x00, 0x06, 0x07, 0x09, 0x16, 0x17, 0x1C, 0x26, 0xFF] : List Word).map decode =
      List.replicate 9 (.error .reservedOpcode) := by decide

/-- V-EN-05 to V-EN-10. -/
theorem test_decode_bad_fields :
    decode 0x00000614 = .error .selReserved ∧ decode 0x00000F15 = .error .selReserved ∧
    decode 0x00000101 = .error .selMisplaced ∧ decode 0x00010001 = .error .vMisplaced ∧
    decode 0x00010018 = .error .vMisplaced ∧ decode 0x00001001 = .error .z1NotZero ∧
    decode 0x80000001 = .error .z2NotZero ∧ decode 0x00020019 = .error .z2NotZero ∧
    decode 0x00010119 = .error .selMisplaced := by decide

/-- The opcode table's words: the first row, a row with SEL, a row with V, and bits above the row's width dropped. -/
theorem test_decodeTableWord :
    decodeTableWord 32 0x00000001 = some .crc32 ∧ decodeTableWord 32 0x00000515 = some .fldSetLsn ∧
    decodeTableWord 32 0x0001001B = some (.setPinned true) ∧ decodeTableWord 32 0 = none := by decide

/-! ## WellFormed: each check refuses an ill-formed term, and the whole refuses it with that check alone failing -/

theorem test_wellFormed_accepts : (CmdFields.mk 0x14 5 0 0 0).wellFormed = true := by decide

theorem test_wellFormed_op : (CmdFields.mk 0x06 0 0 0 0).opLegal = false ∧
    (CmdFields.mk 0x06 0 0 0 0).wellFormed = false := by decide

theorem test_wellFormed_z1 : (CmdFields.mk 0x01 0 1 0 0).z1Zero = false ∧
    (CmdFields.mk 0x01 0 1 0 0).wellFormed = false := by decide

theorem test_wellFormed_z2 : (CmdFields.mk 0x19 0 0 0 1).z2Zero = false ∧
    (CmdFields.mk 0x19 0 0 0 1).wellFormed = false := by decide

theorem test_wellFormed_sel : (CmdFields.mk 0x14 6 0 0 0).selLegal = false ∧
    (CmdFields.mk 0x14 6 0 0 0).wellFormed = false ∧ (CmdFields.mk 0x01 1 0 0 0).selLegal = false := by decide

theorem test_wellFormed_v : (CmdFields.mk 0x18 0 0 1 0).vLegal = false ∧
    (CmdFields.mk 0x18 0 0 1 0).wellFormed = false := by decide

/-! ## Checksum commands -/

/-- V-CK-02. -/
theorem test_crc32_check :
    (got (exec .crc32 { withBytes [0x31, 0x32, 0x33, 0x34, 0x35, 0x36, 0x37, 0x38, 0x39] with len := 9 })).map
      (·.result) = some 0xCBF43926 := by decide +kernel

/-- V-CK-08. -/
theorem test_crc32_length_range :
    (got (exec .crc32 { withArg 0 with len := 0x1001 })).map (fun t => (t.errcode, t.errinfo, t.result)) =
      some (.lengthRange, 0x1001, 0x55) := by decide

/-- V-CK-03 to V-CK-06, on the CRC function. -/
theorem test_crc32_one_byte :
    crc32 [0x61] = 0xE8B7BE43 ∧ crc32 [0x00] = 0xD202EF8D ∧ crc32 [0xFF] = 0xFF000000 ∧
    crc32 [0x31] = 0x83DCEFB7 := by decide +kernel

/-- V-CK-12. -/
theorem test_pcsum_new_page : (got (exec .pcsum newPage)).map (·.result) = some 0xF7A04C4D := by decide +kernel

/-- V-CK-14. -/
theorem test_pcsum_short :
    (got (exec .pcsum { withArg 0 with len := 0x0FFF })).map (fun t => (t.errcode, t.errinfo, t.result)) =
      some (.invalidInput, 0x0FFF, 0x55) := by decide

/-! ## Page commands -/

/-- V-PG-03. -/
theorem test_calc_new_page :
    (got (exec .calcChecksum newPage)).map (fun t => (t.result, t.bytes 6 8)) =
      some (0xF7A04C4D, [0xF0, 0x0F, 0x4D, 0x4C, 0xA0, 0xF7, 0x00, 0x00]) := by decide +kernel

/-- V-PG-08. -/
theorem test_calc_short :
    (got (exec .calcChecksum { packed with len := 0 })).map (fun t => (t.errcode, t.errinfo, t.bytes 8 4)) =
      some (.invalidInput, 0, [0xBE, 0xBA, 0xFE, 0xCA]) := by decide

/-- V-PG-03: the page as CALC left it. -/
theorem test_verify_sealed :
    (got (exec .verify (newPage.bufWrite 8 4 0xF7A04C4D))).map (·.result) = some 1 := by decide +kernel

/-- V-PG-07. -/
theorem test_verify_short :
    (got (exec .verify { packed with len := 0x0FFF, result := 0x55 })).map (fun t => (t.result, t.errcode)) =
      some (0, .noError) := by decide

/-- V-PG-07. -/
theorem test_iscorr_short :
    (got (exec .iscorr { packed with len := 0x0FFF, result := 0x55 })).map (fun t => (t.result, t.errcode)) =
      some (1, .noError) := by decide

/-- V-PG-01. -/
theorem test_page_new_bytes :
    (got (exec .pageNew packed)).map (fun t => (t.bytes 0 17, t.bytes 4092 4)) =
      some ([0, 0, 0, 0, 0x02, 0, 0xF0, 0x0F, 0, 0, 0, 0, 0, 0, 0, 0, 0], [0, 0, 0, 0]) := by decide +kernel

/-- V-PG-10. -/
theorem test_page_new_leaves_registers :
    (got (exec .pageNew { withArg 0 with len := 0x0FFF, hdr := vHeader })).map (fun t => (t.hdr, t.result, t.len)) =
      some (vHeader, 0x55, 0x0FFF) := by decide +kernel

/-! ## Header commands -/

/-- V-HD-01. -/
theorem test_hdr_default :
    (got (exec .hdrDefault { packed with hdr := vHeader })).map (fun t => (t.hdr, t.buf)) =
      some ({ pageId := 0, pageType := 0x02, flags := 0, freeSpace := 0x0FF0, checksum := 0, lsn := 0 },
        packed.buf) := by decide

/-- V-HD-03. -/
theorem test_hdr_new :
    (got (exec .hdrNew { withArg 0x09 with arg1 := 0xFFFFFFFF, hdr := vHeader })).map (·.hdr) =
      some { pageId := 0xFFFFFFFF, pageType := 0x09, flags := 0, freeSpace := 0x0FF0, checksum := 0, lsn := 0 } := by
  decide

/-- V-HD-04. -/
theorem test_hdr_new_invalid :
    (got (exec .hdrNew { withArg 0x0A with hdr := vHeader })).map (fun t => (t.errcode, t.errinfo, t.hdr)) =
      some (.invalidPageType, 0x0A, vHeader) := by decide

/-- V-HD-06, and BUF from 16 on keeps its bytes. -/
theorem test_hdr_pack :
    (got (exec .hdrPack { withBytes (List.replicate 17 0xEE) with hdr := vHeader })).map (·.bytes 0 17) =
      some [0x78, 0x56, 0x34, 0x12, 0x05, 0x03, 0x00, 0x01, 0xBE, 0xBA, 0xFE, 0xCA, 0x2A, 0x00, 0x00, 0x00, 0xEE] := by
  decide +kernel

/-- V-HD-07. -/
theorem test_hdr_unpack : (got (exec .hdrUnpack packed)).map (·.hdr) = some vHeader := by decide +kernel

/-- V-HD-08. -/
theorem test_fld_get :
    [Instr.fldGetPageId, .fldGetPageType, .fldGetFlags, .fldGetFreeSpace, .fldGetChecksum, .fldGetLsn].map
      (fun i => (got (exec i packed)).map (·.result)) =
    [some 0x12345678, some 0x05, some 0x03, some 0x0100, some 0xCAFEBABE, some 0x2A] := by decide +kernel

/-- V-HD-09 and V-HD-10. -/
theorem test_fld_set_truncates :
    (got (exec .fldSetFreeSpace { packed with arg0 := 0x00012345 })).map (·.bytes 4 6) =
      some [0x05, 0x03, 0x45, 0x23, 0xBE, 0xBA] ∧
    (got (exec .fldSetPageType { packed with arg0 := 0xAABBCCDD })).map (·.bytes 3 3) =
      some [0x12, 0xDD, 0x03] := by decide +kernel

/-- The other four fields, by the offsets and widths of 30_encoding.md R85. -/
theorem test_fld_set_others :
    (got (exec .fldSetPageId { packed with arg0 := 0xAABBCCDD })).map (·.bytes 0 5) =
      some [0xDD, 0xCC, 0xBB, 0xAA, 0x05] ∧
    (got (exec .fldSetFlags { packed with arg0 := 0xAABBCCDD })).map (·.bytes 4 3) = some [0x05, 0xDD, 0x00] ∧
    (got (exec .fldSetChecksum { packed with arg0 := 0xAABBCCDD })).map (·.bytes 7 6) =
      some [0x01, 0xDD, 0xCC, 0xBB, 0xAA, 0x2A] ∧
    (got (exec .fldSetLsn { packed with arg0 := 0xAABBCCDD })).map (·.bytes 11 5) =
      some [0xCA, 0xDD, 0xCC, 0xBB, 0xAA] := by decide +kernel

/-- V-HD-12, V-HD-14: `BUF[5]` = 0x02, and RESULT is kept by a set. -/
theorem test_flags_vhd12 :
    let s := { withBytes [0, 0, 0, 0, 0x02, 0x02, 0xF0] with result := 1 }
    (got (exec .getDirty s)).map (·.result) = some 0 ∧ (got (exec .getPinned s)).map (·.result) = some 1 ∧
    (got (exec (.setDirty false) s)).map (·.result) = some 1 := by decide +kernel

/-- V-HD-13: the reserved bits are kept. -/
theorem test_flags_vhd13 :
    (got (exec (.setPinned false) (withBytes [0, 0, 0, 0, 0, 0xFF, 0]))).map (·.bytes 5 1) = some [0xFD] ∧
    (got (exec (.setDirty false) (withBytes [0, 0, 0, 0, 0, 0xFD, 0]))).map (·.bytes 5 1) = some [0xFC] ∧
    (got (exec (.setDirty true) (withBytes [0, 0, 0, 0, 0, 0xFC, 0]))).map (·.bytes 5 1) = some [0xFD] ∧
    (got (exec (.setPinned true) (withBytes [0, 0, 0, 0, 0, 0x01, 0]))).map (·.bytes 5 1) = some [0x03] := by
  decide +kernel

/-! ## Page-type commands -/

/-- V-PT-01, V-PT-02, V-PT-07. -/
theorem test_type_decode :
    ([0x01, 0x09, 0x105] : List Word).map (fun v => (got (exec .typeDecode (withArg v))).map (·.result)) =
      [some 1, some 9, some 5] := by decide

/-- V-PT-04, V-PT-05, V-PT-06, V-PT-08. -/
theorem test_type_decode_invalid :
    ([0x00, 0x0A, 0xFF, 0x300] : List Word).map
      (fun v => (got (exec .typeDecode (withArg v))).map (fun t => (t.errcode, t.errinfo, t.result))) =
      [some (.invalidPageType, 0x00, 0x55), some (.invalidPageType, 0x0A, 0x55),
       some (.invalidPageType, 0xFF, 0x55), some (.invalidPageType, 0x00, 0x55)] := by decide

/-- The results of a predicate on the tags 1 to 9. -/
def column (i : Instr) : List (Option Word) :=
  ([1, 2, 3, 4, 5, 6, 7, 8, 9] : List Word).map fun v => (got (exec i (withArg v))).map (·.result)

/-- V-PT-09, the five columns of its table. -/
theorem test_predicates :
    column .isBtree = [some 0, some 0, some 0, some 1, some 1, some 0, some 0, some 0, some 0] ∧
    column .isFreelist = [some 0, some 0, some 0, some 0, some 0, some 0, some 0, some 1, some 0] ∧
    column .isOverflow = [some 0, some 0, some 0, some 0, some 0, some 0, some 1, some 0, some 0] ∧
    column .isData = [some 0, some 0, some 1, some 0, some 0, some 0, some 0, some 0, some 0] ∧
    column .isMeta = [some 1, some 1, some 0, some 0, some 0, some 0, some 0, some 0, some 0] := by decide +kernel

/-- V-PT-10. -/
theorem test_predicates_invalid :
    ∀ i ∈ [Instr.isBtree, .isFreelist, .isOverflow, .isData, .isMeta],
      (got (exec i (withArg 0x0B))).map (fun t => (t.errcode, t.errinfo, t.result)) =
        some (.invalidPageType, 0x0B, 0x55) := by decide

/-! ## The engine's step -/

/-- V-EN-01: an illegal word. -/
theorem test_step_illegal :
    (got (step (busyWith (withArg 0) 0x00000614))).map (fun t => (t.errcode, t.errinfo, t.result, t.done, t.pending)) =
      some (.illegalCommand, 0x00000614, 0x55, true, none) := by decide

/-- V-PT-01 as an engine step: STATUS reads 0x002 after it. -/
theorem test_step_type_decode :
    (got (step (busyWith (withArg 1) 0x00000020))).map (fun t => (t.result, t.status, t.pending)) =
      some (1, 0x00000002, none) := by decide

/-- 60_exceptions.md R200: STATUS after each kind of error, as 95_test_vectors.md reads it. -/
theorem test_status_words :
    (got (step (busyWith { State.reset with len := 9 } 0x00000002))).map (·.status) = some 0x106 ∧
    (got (step (busyWith (withArg 0x0A) 0x00000020))).map (·.status) = some 0x206 ∧
    (got (step (busyWith State.reset 0x00000000))).map (·.status) = some 0x306 ∧
    (got (step (busyWith { State.reset with len := 0x1001 } 0x00000001))).map (·.status) = some 0x406 := by decide

/-- V-HD-01 through `withFetchWord`: the very next step runs the word. -/
theorem test_withFetchWord :
    (got (step (State.reset.withFetchWord 32 0x00000010))).map (fun t => (t.hdr.freeSpace, t.cmd, t.status)) =
      some (0x0FF0, 0x00000010, 0x002) := by decide

/-! ## The host port -/

/-- V-BUS-01. -/
theorem test_reset_reads :
    [0x000, 0x004, 0x014, 0x00C, 0x008, 0x030].map (fun a => answer (host1 State.reset a 4 .read)) =
      [some (.data 0x1000), some (.data 0x1000), some (.data 0x1000), some (.data 0), some (.data 0),
       some (.data 0)] := by decide

/-- V-BUS-02, V-BUS-03. -/
theorem test_readonly_writes :
    (got (step (host1 (withArg 0) 0x020 4 (.write 1)))).map (fun t => (t.faults, t.result, t.reply)) =
      some ([.busReadonly 0x020], 0x55, some .busError) ∧
    faultsAfter (host1 State.reset 0x000 4 (.write 0)) = some [.busReadonly 0x000] ∧
    faultsAfter (host1 State.reset 0x00C 4 (.write 0)) = some [.busReadonly 0x00C] := by decide

/-- V-BUS-04 to V-BUS-06, V-BUS-08. -/
theorem test_bus_faults :
    faultsAfter (host1 State.reset 0x1001 2 .read) = some [.busMisaligned 0x1001 2] ∧
    faultsAfter (host1 State.reset 0x014 1 .read) = some [.busMisaligned 0x014 1] ∧
    faultsAfter (host1 State.reset 0x03C 4 .read) = some [.busUnmapped 0x03C] ∧
    faultsAfter (host1 State.reset 0xFFC 4 .read) = some [.busUnmapped 0xFFC] ∧
    faultsAfter (host1 State.reset 0x1FFE 4 .read) = some [.busMisaligned 0x1FFE 4] := by decide

/-- V-BUS-07. -/
theorem test_buffer_top :
    (got (step (host1 State.reset 0x1FFC 4 (.write 0x11223344)))).map (fun t => (t.bytes 4092 4, t.faults)) =
      some ([0x44, 0x33, 0x22, 0x11], []) ∧
    answer (host1 (State.reset.bufWrite 0xFFC 4 0x11223344) 0x1FFF 1 .read) = some (.data 0x11) := by decide +kernel

/-- V-BUS-09. -/
theorem test_write_while_busy :
    (got (step (host1 (State.reset.issue 0x00000008) 0x014 4 (.write 5)))).map
      (fun t => (t.faults, t.len, t.pending)) =
      some ([.writeWhileBusy 0x014], 0x1000, some 0x00000008) := by decide

/-- V-BUS-10. -/
theorem test_reads_in_flight :
    let s := (withArg 3).issue 0x00000020
    answer (host1 s 0x00C 4 .read) = some (.data 0x00000001) ∧
    answer (host1 s 0x008 4 .read) = some (.data 0x00000020) ∧
    answer (host1 s 0x018 4 .read) = some (.data 3) := by decide

/-- V-BUS-11. -/
theorem test_reset_while_busy :
    (got (step { (withArg 3).issue 0x00000020 with
        inbox := [.reset], faults := [.busUnmapped 0x03C], len := 5 })).map
      (fun t => (t.pending, t.arg0, t.result, t.len, t.faults)) =
      some (none, 0, 0, 0x1000, [.busUnmapped 0x03C]) := by decide

/-- V-HD-11. -/
theorem test_narrow_registers :
    (got (step (host1 State.reset 0x028 4 (.write 0x1234)))).map (·.readReg .hdrType) = some 0x34 ∧
    (got (step (host1 State.reset 0x030 4 (.write 0x00ABCDEF)))).map (·.readReg .hdrFree) = some 0xCDEF := by decide

/-- V-HD-16, P4: little-endian reads of BUF. -/
theorem test_buffer_reads :
    answer (host1 packed 0x1000 4 .read) = some (.data 0x12345678) ∧
    answer (host1 packed 0x1004 4 .read) = some (.data 0x01000305) ∧
    answer (host1 packed 0x1006 2 .read) = some (.data 0x0100) ∧
    answer (host1 packed 0x1008 1 .read) = some (.data 0xBE) := by decide +kernel

/-- The fault set of P5, in the model's listing order. -/
theorem test_p5_faults :
    recordFaults [.busReadonly 0x020, .busMisaligned 0x1001 2, .busUnmapped 0x03C, .writeWhileBusy 0x014,
      .busUnmapped 0x03C] [] =
      [.busMisaligned 0x1001 2, .busUnmapped 0x03C, .busReadonly 0x020, .writeWhileBusy 0x014] := by decide

/-- 30_encoding.md R90: CHECK_OK and CHECK_ERR on the STATUS words of 95_test_vectors.md. -/
theorem test_checks :
    checkOk (some (.data 0x002)) = true ∧ checkErr .invalidInput (some (.data 0x106)) = true ∧
    checkErr .lengthRange (some (.data 0x406)) = true ∧ checkOk (some (.data 0x306)) = false := by decide

/-- 30_encoding.md R89, R90: `RUN PAGE_NEW` with one BUSY read, as accesses. -/
theorem test_run :
    runCmd .pageNew 1 =
      [.host { addr := 0x008, width := 4, dir := .write 0x00000008 },
       .host { addr := 0x00C, width := 4, dir := .read }, .engine,
       .host { addr := 0x00C, width := 4, dir := .read }] := by decide

/-! ## States and operands that meet the hypotheses of the obligations -/

/-- A state with every kind of thing in it that an invariant could break on: BUF cells, faults, an error. -/
def livedIn : State :=
  { packed with
    cmd := 0x00000020, done := true, errcode := .invalidPageType, errinfo := 0x0A
    faults := [.busMisaligned 0x1001 2, .busUnmapped 0x03C] }

theorem inv_of_idle {s : State} (h : s.Canonical) (hp : s.pending = none) (he : s.ErrorExplained) : s.Inv :=
  ⟨h, fun c hc => (by rw [hp] at hc; cases hc), he⟩

/-- O4: an idle state with an error, a state in flight, and the step of each. -/
theorem test_hyp_StepKeepsInvariant :
    (livedIn.Inv ∧ ∃ t, step livedIn = .next t) ∧
    ((busyWith livedIn 0x00000012).Inv ∧ ∃ t, step (busyWith livedIn 0x00000012) = .next t) :=
  ⟨⟨inv_of_idle (by unfold State.Canonical; decide) rfl
      (show _ ∧ _ ∧ _ ∧ _ from by decide), _, rfl⟩,
   ⟨by unfold State.Canonical; decide, fun c hc => (by cases hc; exact ⟨rfl, rfl, rfl⟩), trivial⟩, _, rfl⟩

/-- O6: a legal word, an illegal word, nothing pending; the engine's turn listed, or nothing listed. -/
theorem test_hyp_StepPerformsTheDecodedCommand :
    EngineTurn (busyWith State.reset 0x00000020) [] ∧
    (busyWith State.reset 0x00000020).pending = some 0x00000020 ∧ decode 0x00000020 = .ok .typeDecode ∧
    EngineTurn (latchWord State.reset 0x00000614) [] ∧
    (latchWord State.reset 0x00000614).pending = some 0x00000614 ∧ decode 0x00000614 = .error .selReserved ∧
    EngineTurn State.reset [] ∧ State.reset.pending = none :=
  ⟨.inr rfl, rfl, by decide, .inl ⟨rfl, rfl⟩, rfl, by decide, .inl ⟨rfl, rfl⟩, rfl⟩

/-- O7: each of the reasons of 30_encoding.md R87. -/
theorem test_hyp_IllegalWordRaisesIllegalCommand :
    (∀ c, EngineTurn (busyWith State.reset c) [] ∧ (busyWith State.reset c).pending = some c) ∧
    ([0x00000000, 0x00000614, 0x00000101, 0x00010018, 0x00001001, 0x00020019] : List Word).map
      (fun c => (CmdFields.ofWord c).wellFormed) = List.replicate 6 false :=
  ⟨fun _ => ⟨.inr rfl, rfl⟩, by decide⟩

/-- O9, O10: HDR_NEW on an invalid tag raises an error and changes ERRINFO; a reset changes ERRINFO too. -/
theorem test_hyp_ErrorsLeaveNothingHalfDone :
    ∃ t, EngineTurn (busyWith State.reset 0x00000011) [] ∧
      (busyWith State.reset 0x00000011).pending = some 0x00000011 ∧
      (busyWith State.reset 0x00000011).errcode = .noError ∧
      step (busyWith State.reset 0x00000011) = .next t ∧ t.errcode ≠ .noError :=
  ⟨_, .inr rfl, rfl, rfl, rfl, by decide⟩

theorem test_hyp_ErrinfoChangesOnlyByErrorOrReset :
    (∃ t, step (busyWith (withArg 0x0A) 0x00000011) = .next t ∧ t.errinfo ≠ (withArg 0x0A).errinfo) ∧
    (∃ t, step { livedIn with inbox := [.reset] } = .next t ∧ t.errinfo ≠ livedIn.errinfo) :=
  ⟨⟨_, rfl, by decide⟩, _, rfl, by decide⟩

/-- O11: SET_PINNED 0 and a host write each change the flags byte 0x03. -/
theorem test_hyp_HeaderFlagsChangeOnlyByNamedEvents :
    (∃ t, step (busyWith packed 0x0000001B) = .next t ∧ t.bufByte 5 ≠ (busyWith packed 0x0000001B).bufByte 5) ∧
    (∃ t, step (host1 packed 0x1005 1 (.write 0x80)) = .next t ∧
      t.bufByte 5 ≠ (host1 packed 0x1005 1 (.write 0x80)).bufByte 5) :=
  ⟨⟨_, rfl, by decide⟩, _, rfl, by decide⟩

theorem test_hyp_RecordedFaultsStay :
    ∃ t, step { livedIn with inbox := [.reset] } = .next t ∧
      HostFault.busUnmapped 0x03C ∈ ({ livedIn with inbox := [.reset] } : State).faults := ⟨_, rfl, by decide⟩

/-- O13: one event of each kind, at the ends of the window. -/
theorem test_hyp_EveryRunEnds :
    ∀ e ∈ [Event.host { addr := 0x1FFF, width := 1, dir := .read }, .engine, .reset,
      .bus { addr := Config.base, width := 4, dir := .read },
      .bus { addr := Config.base + 0x1FFF, width := 1, dir := .read }], e.InWindow := by
  simp [Event.InWindow]

theorem test_hyp_PollSeesTheCompletedCommand :
    State.reset.pending = none ∧
    ({ State.reset with inbox := runCmd .pageNew 2 ++ [.reset] } : State).inbox = runCmd .pageNew 2 ++ [.reset] :=
  ⟨rfl, rfl⟩

/-- O15: each way an access is refused, at the edges of its range, and the busy write. -/
theorem test_hyp_FaultyAccessIsOnlyRecorded :
    Records State.reset { addr := 0x014, width := 1, dir := .read } (.busMisaligned 0x014 1) ∧
    Records State.reset { addr := 0x0FFE, width := 4, dir := .read } (.busMisaligned 0x0FFE 4) ∧
    Records State.reset { addr := 0x1000, width := 8, dir := .read } (.busMisaligned 0x1000 8) ∧
    Records State.reset { addr := 0x1FFE, width := 4, dir := .read } (.busMisaligned 0x1FFE 4) ∧
    Records State.reset { addr := 0x03C, width := 4, dir := .read } (.busUnmapped 0x03C) ∧
    Records State.reset { addr := 0xFFC, width := 4, dir := .write 0 } (.busUnmapped 0xFFC) ∧
    Records State.reset { addr := 0x020, width := 4, dir := .write 0 } (.busReadonly 0x020) ∧
    Records (State.reset.issue 8) { addr := 0x014, width := 4, dir := .write 5 } (.writeWhileBusy 0x014) := by
  simp [Records, State.reset, State.issue]

/-- O16: the accesses where its clauses meet; the first three are listed ones, the last three are not. -/
theorem test_hyp_AdmittedAccessesAreTheListedOnes :
    (∀ p ∈ [(0x038, 4), (0x1000, 4), (0x1FFF, 1), (0x03C, 4), (0x0FFC, 4), (0x1FFF, 2)],
      (host1 State.reset p.1 p.2 .read).Launch ∧ p.1 < 0x2000) ∧
    [(0x038, 4), (0x1000, 4), (0x1FFF, 1), (0x03C, 4), (0x0FFC, 4), (0x1FFF, 2)].map
      (fun p => faultsAfter (host1 State.reset p.1 p.2 .read)) =
      [some [], some [], some [], some [.busUnmapped 0x03C], some [.busUnmapped 0x0FFC],
       some [.busMisaligned 0x1FFF 2]] :=
  ⟨fun p hp => ⟨⟨rfl, rfl⟩, by revert p; decide⟩, by decide⟩

/-- O17: idle, the first and the last register; in flight, CMD. -/
theorem test_hyp_RegisterReadsAnswerExactly :
    (0x000, 0x1000) ∈ registerTable (host1 livedIn 0x000 4 .read) ∧
    (0x038, 0) ∈ registerTable (host1 livedIn 0x038 4 .read) ∧ (host1 livedIn 0x038 4 .read).pending = none ∧
    (0x008, 0x20) ∈ registerTable (host1 (livedIn.issue 0x20) 0x008 4 .read) ∧
    (host1 (livedIn.issue 0x20) 0x008 4 .read).pending ≠ none := by decide

/-- O18: a narrow register, and the two ends of the buffer window. -/
theorem test_hyp_ReadsInFlightAnswerSomeValue :
    (host1 (livedIn.issue 0x20) 0x02C 4 .read).pending = some 0x20 ∧ (0x02C, 8) ∈ openRegisters ∧
    (host1 (livedIn.issue 0x20) 0x1000 4 .read).pending = some 0x20 ∧ 0x1000 % 4 = 0 ∧
    (host1 (livedIn.issue 0x20) 0x1FFF 1 .read).pending = some 0x20 ∧ 0x1FFF % 1 = 0 := by decide

/-- O19: a write of all ones to the one-byte register. -/
theorem test_hyp_RegisterWritesKeepTheWidth :
    let s := host1 livedIn 0x028 4 (.write 0xFFFFFFFF)
    s.pending = none ∧ (0x028, { s with hdr := { s.hdr with pageType := 0xFF } }) ∈ registerWriteTable s 0xFFFFFFFF := by
  decide

/-- O20: a CMD write and a CMD read while idle, and a CMD write in flight. -/
theorem test_hyp_CmdWriteIssuesTheCommand :
    (livedIn.pending = none ∧
      ({ livedIn with inbox := [w32 .cmd 0xFFFFFFFF, rd32 .cmd] } : State).inbox =
        [.host { addr := 0x008, width := 4, dir := .write 0xFFFFFFFF },
         .host { addr := 0x008, width := 4, dir := .read }]) ∧
    (host1 (livedIn.issue 8) 0x008 4 (.write 3)).pending ≠ none ∧
    (host1 (livedIn.issue 8) 0x008 4 (.write 3)).inbox = [.host { addr := 0x008, width := 4, dir := .write 3 }] :=
  ⟨⟨rfl, rfl⟩, by decide, rfl⟩

/-- O21, O22: each width at its last offset. -/
theorem test_hyp_BufferAccesses :
    ∀ p ∈ [(0, 1), (4095, 1), (4094, 2), (4092, 4)],
      (host1 packed (0x1000 + p.1) p.2 .read).pending = none ∧ (p.2 = 1 ∨ p.2 = 2 ∨ p.2 = 4) ∧ p.1 < 4096 ∧
      p.1 % p.2 = 0 := by decide

/-- O23: in flight, a write on the host port and a read on the platform's bus. -/
theorem test_hyp_NothingChangesInFlight :
    (host1 (packed.issue 0x20) 0x014 4 (.write 5)).pending ≠ none ∧
    (∃ t, step (host1 (packed.issue 0x20) 0x014 4 (.write 5)) = .next t) ∧
    (∃ t, step { packed.issue 0x20 with inbox := [.bus { addr := Config.base, width := 4, dir := .read }] } =
      .next t) := by
  refine ⟨by decide, ⟨_, rfl⟩, ?_⟩
  rw [step_cons rfl]
  simp only [handleEvent, windowOffset, Nat.le_refl, true_and]
  rw [if_pos (Nat.lt_add_of_pos_right (by decide)), Nat.sub_self]
  exact ⟨_, rfl⟩

/-- O24: a read that is admitted and one that is not. -/
theorem test_hyp_ReadsHaveNoSideEffect :
    (∃ t, step (host1 packed 0x1FFF 1 .read) = .next t) ∧ (∃ t, step (host1 packed 0x03C 4 .read) = .next t) :=
  ⟨⟨_, rfl⟩, _, rfl⟩

/-- O25, O26: the reset signal, and a host write that changes a byte. -/
theorem test_hyp_Reset :
    ({ livedIn.issue 0x20 with inbox := [.reset] } : State).inbox = [.reset] ∧
    (∃ t, step (host1 packed 0x1000 1 (.write 0)) = .next t ∧
      t.bufByte 0 ≠ (host1 packed 0x1000 1 (.write 0)).bufByte 0) := ⟨rfl, _, rfl, by decide⟩

/-- O27: the first address past the window. -/
theorem test_hyp_AccessOutsideTheWindowIsRefused :
    ∃ a : Access, ({ State.reset with inbox := [.bus a] } : State).inbox = [.bus a] ∧ Config.base + 0x1FFF < a.addr :=
  ⟨{ addr := Config.base + 0x2000, width := 4, dir := .read }, rfl, by simp⟩

/-- O28: the first and the last offset of the window. -/
theorem test_hyp_WindowLiesAtBase :
    ∀ off ∈ [0, 0x1FFF], off < 0x2000 ∧
      ({ State.reset with inbox := [.bus { addr := Config.base + off, width := 1, dir := .read }] } : State).inbox =
        [.bus { addr := Config.base + off, width := 1, dir := .read }] := fun off h => ⟨by revert off; decide, rfl⟩

/-- O29: LEN at 0, at the capacity and one above it. -/
theorem test_hyp_Crc32HashesThePrefix :
    (0x0 : Word).toNat ≤ 4096 ∧ (0x1000 : Word).toNat ≤ 4096 ∧ 4096 < (0x1001 : Word).toNat ∧
    4096 < (0xFFFFFFFF : Word).toNat := by decide

/-- O30: two buffers that differ from offset 1 on. -/
theorem test_hyp_Crc32IgnoresBytesPastLen :
    let s := { withBytes [0x61, 0x00] with len := 1 }
    let t := { withBytes [0x61, 0xFF] with len := 1 }
    s.len = t.len ∧ s.len.toNat ≤ 4096 ∧ (∀ k, k < s.len.toNat → s.bufByte k = t.bufByte k) ∧
      s.bufByte 1 ≠ t.bufByte 1 := by decide

/-- O31: the string "123456789", and LEN = 0. -/
theorem test_hyp_Crc32GivesTheCheckValue :
    let s := { withBytes [0x31, 0x32, 0x33, 0x34, 0x35, 0x36, 0x37, 0x38, 0x39] with len := 9 }
    s.len = 9 ∧ (∀ k, k < 9 → s.bufByte k = BitVec.ofNat 8 (0x31 + k)) ∧ ({ s with len := 0 } : State).len = 0 := by
  decide

/-- O33, O36, O37, O38: LEN a whole page, one less and one more. -/
theorem test_hyp_WholePage :
    State.reset.len.toNat = 4096 ∧ ({ State.reset with len := 0x0FFF } : State).len.toNat ≠ 4096 ∧
    ({ State.reset with len := 0x1001 } : State).len.toNat ≠ 4096 := by decide

/-- O34: two pages that differ in the window only. -/
theorem test_hyp_PageChecksumIgnoresItsWindow :
    packed.len.toNat = 4096 ∧ (packed.bufWrite 8 4 0).len.toNat = 4096 ∧
    (∀ k, k < 4096 → ¬(8 ≤ k ∧ k < 12) → packed.bufByte k = (packed.bufWrite 8 4 0).bufByte k) ∧
    packed.bufByte 8 ≠ (packed.bufWrite 8 4 0).bufByte 8 :=
  ⟨rfl, rfl, fun k _ h => by rw [State.bufByte_bufWrite, if_neg h], by decide⟩

/-- The page `packed` as CALC leaves it. -/
def sealedPage : State := (packed.bufWrite 8 4 packed.pageChecksum).setResult packed.pageChecksum

theorem sealedPage_eq : exec .calcChecksum packed = .next sealedPage := by
  change execCalcChecksum packed = _
  rw [execCalcChecksum, if_pos (by decide)]
  rfl

/-- O39: the sealed page with another RESULT. -/
theorem test_hyp_CalcThenVerifyHolds :
    packed.len.toNat = 4096 ∧ exec .calcChecksum packed = .next sealedPage ∧
    ({ sealedPage with result := 0 } : State).len = sealedPage.len ∧
    (∀ k, k < 4096 → ({ sealedPage with result := 0 } : State).bufByte k = sealedPage.bufByte k) :=
  ⟨rfl, sealedPage_eq, rfl, fun _ _ => rfl⟩

/-- O40: the byte at offset 4 of the sealed page changed from 0x05 to 0x06. -/
theorem test_hyp_OneByteChangeIsDetected :
    let u := sealedPage.bufWrite 4 1 0x06
    packed.len.toNat = 4096 ∧ exec .calcChecksum packed = .next sealedPage ∧ u.len.toNat = 4096 ∧
    sealedPage.len.toNat = 4096 ∧ u.bufByte 4 ≠ sealedPage.bufByte 4 ∧
    (∀ j, j < 4096 → j ≠ 4 → u.bufByte j = sealedPage.bufByte j) ∧
    (∀ j, j < 4096 → sealedPage.bufByte j = if j = 4 then sealedPage.bufByte 4 else u.bufByte j) := by
  have h : ∀ j, j ≠ 4 → (sealedPage.bufWrite 4 1 0x06).bufByte j = sealedPage.bufByte j := fun j hj => by
    rw [State.bufByte_bufWrite, if_neg (by omega)]
  refine ⟨rfl, sealedPage_eq, rfl, rfl, ?_, fun j _ hj => h j hj, fun j _ => ?_⟩
  · rw [State.bufByte_bufWrite, sealedPage, State.setResult_bufByte, State.bufByte_bufWrite, if_pos (by omega),
      if_neg (by omega)]
    decide
  · split_ifs with hj
    · rw [hj]
    · rw [h j hj]

/-- O41: the sealed page with its stored checksum set to 0. -/
theorem test_hyp_WindowChangeIsComparedNotHashed :
    packed.len.toNat = 4096 ∧ exec .calcChecksum packed = .next sealedPage ∧
    (sealedPage.bufWrite 8 4 0).len.toNat = 4096 ∧
    (∀ k, k < 4096 → ¬(8 ≤ k ∧ k < 12) → (sealedPage.bufWrite 8 4 0).bufByte k = sealedPage.bufByte k) :=
  ⟨rfl, sealedPage_eq, rfl, fun k _ h => by rw [State.bufByte_bufWrite, if_neg h]⟩

theorem test_hyp_NewPageDoesNotVerify :
    State.reset.len.toNat = 4096 ∧ ∃ t, exec .pageNew State.reset = .next t := ⟨rfl, _, rfl⟩

/-- O44, O54, O55: the tag byte at the ends of both of its ranges. -/
theorem test_hyp_Tags :
    ([0x01, 0x09, 0x105] : List Word).map
      (fun v => decide (1 ≤ (withArg v).arg0.toNat % 256 ∧ (withArg v).arg0.toNat % 256 ≤ 9)) =
      [true, true, true] ∧
    ([0x00, 0x0A, 0xFF, 0x300] : List Word).map
      (fun v => decide (1 ≤ (withArg v).arg0.toNat % 256 ∧ (withArg v).arg0.toNat % 256 ≤ 9)) =
      [false, false, false, false] := by decide

/-- O47: a pack followed by an unpack, and an unpack followed by a pack. -/
theorem test_hyp_PackAndUnpackAreInverse :
    (∃ t u, exec .hdrPack livedIn = .next t ∧ exec .hdrUnpack t = .next u) ∧
    (∃ t u, exec .hdrUnpack livedIn = .next t ∧ exec .hdrPack t = .next u) := ⟨⟨_, _, rfl, rfl⟩, _, _, rfl, rfl⟩

/-- O48, O49, O50, O55: a row of each table. -/
theorem test_hyp_Tables :
    (.fldGetPageId, 0x00000014, .fldSetPageId, 0x00000015, 0, 4) ∈ fieldTable ∧
    (.fldGetLsn, 0x00000514, .fldSetLsn, 0x00000515, 12, 4) ∈ fieldTable ∧
    (.isMeta, 0x00000025, [1, 2]) ∈ predicateTable := by decide

theorem test_hyp_FieldsAreIndependent : ∃ t, exec .fldSetFreeSpace packed = .next t := ⟨_, rfl⟩

/-- O52, O53: both values of V for both flags. -/
theorem test_hyp_Flags :
    ∀ v : Bool, (Instr.setDirty v, 0) ∈ [(Instr.setDirty v, 0), (.setPinned v, 1)] ∧
      (∃ t, exec (.setDirty v) packed = .next t) ∧ (∃ t, exec (.setPinned v) packed = .next t) :=
  fun v => ⟨by simp, ⟨_, rfl⟩, _, rfl⟩

end Sys2Proof.Tests
end

/-! # Proofs for 10_state.md: what the decoder accepts, what a step can do, and the invariant -/

/-! ## Which words the decoder accepts -/

namespace Sys2Proof

/-- The bytes that name an opcode are those of R84. -/
theorem Op.isSome_ofByte (b : Byte) : (Op.ofByte b).isSome = CmdFields.legalOps.contains b := by
  revert b; decide

/-- The opcode bytes of formats S and B (R82, R84). -/
theorem Op.format_of_ofByte {b : Byte} {op : Op} (h : Op.ofByte b = some op) :
    (op.format = .s ↔ b = 0x14 ∨ b = 0x15) ∧ (op.format = .b ↔ b = 0x19 ∨ b = 0x1B) := by
  revert b op; decide

theorem HdrField.isSome_ofSel (sel : BitVec 4) : (HdrField.ofSel sel).isSome = decide (sel.toNat ≤ 5) := by
  revert sel; decide

/-- A command lacks a meaning for its operand only by a reserved SEL in format S (R85). -/
theorem Op.isSome_instr (op : Op) (sel : BitVec 4) (v : BitVec 1) :
    (op.instr sel v).isSome = true ↔ (op.format = .s → sel.toNat ≤ 5) := by
  cases op with
  | fldGet | fldSet => simp [Op.instr, Op.format, HdrField.isSome_ofSel]
  | _ => simp [Op.instr, Op.format]

/-- The checks of R87 on a word with an opcode, in the order of R86. -/
theorem CmdFields.wellFormed_iff {f : CmdFields} {op : Op} (h : Op.ofByte f.op = some op) :
    f.wellFormed = true ↔ ¬ f.z1 ≠ 0 ∧ ¬ f.z2 ≠ 0 ∧ ¬ (op.format ≠ .s ∧ f.sel ≠ 0) ∧
      ¬ (op.format ≠ .b ∧ f.v ≠ 0) ∧ (op.format = .s → f.sel.toNat ≤ 5) := by
  obtain ⟨hs, hb⟩ := Op.format_of_ofByte h
  have hop : f.opLegal = true := by rw [CmdFields.opLegal, ← Op.isSome_ofByte, h]; rfl
  simp only [CmdFields.wellFormed, hop, CmdFields.z1Zero, CmdFields.z2Zero, CmdFields.selLegal, CmdFields.vLegal,
    ← hs, ← hb]
  by_cases hf : op.format = .s
  · simp [hf, and_assoc, and_comm, and_left_comm]
  · simp [hf, and_assoc, or_iff_not_imp_left]

/-- The decoder accepts exactly the legal words (30_encoding.md R86, R87). -/
theorem decodeFields_ok_iff (f : CmdFields) : (∃ i, decodeFields f = .ok i) ↔ f.wellFormed = true := by
  rw [decodeFields]
  cases h : Op.ofByte f.op with
  | none =>
    have hop : f.opLegal = false := by rw [CmdFields.opLegal, ← Op.isSome_ofByte, h]; rfl
    simp [CmdFields.wellFormed, hop]
  | some op =>
    rw [CmdFields.wellFormed_iff h]
    have hi := Op.isSome_instr op f.sel f.v
    have hrej : ¬ ∃ _ : Instr, False := fun ⟨_, h⟩ => h
    dsimp only
    split_ifs with h1 h2 h3 h4
    · exact iff_of_false hrej fun ⟨hz1, _⟩ => hz1 h1
    · exact iff_of_false hrej fun ⟨_, hz2, _⟩ => hz2 h2
    · exact iff_of_false hrej fun ⟨_, _, hsel, _⟩ => hsel h3
    · exact iff_of_false hrej fun ⟨_, _, _, hv, _⟩ => hv h4
    · cases ho : op.instr f.sel f.v with
      | none => exact iff_of_false (by simp) fun ⟨_, _, _, _, h5⟩ => by simpa [ho] using hi.2 h5
      | some i => exact iff_of_true ⟨i, rfl⟩ ⟨h1, h2, h3, h4, hi.1 (by rw [ho]; rfl)⟩

theorem wellFormed_of_decode_error {c : Word} {e : DecodeError} (h : decode c = .error e) :
    (CmdFields.ofWord c).wellFormed = false := by
  refine Bool.eq_false_iff.2 fun hw => ?_
  obtain ⟨i, hi⟩ := (decodeFields_ok_iff _).2 hw
  rw [decode, hi] at h
  cases h

end Sys2Proof

/-! ## What a step can do -/

namespace Sys2Proof.Machine

/-- On its turn the engine works on the state with the rest of the events (log 5). -/
theorem step_of_engineTurn {s : State} {rest : List Event} (h : EngineTurn s rest) :
    step s = engineStep { s with inbox := rest } := by
  rcases h with ⟨hs, rfl⟩ | hs
  · rw [step_nil hs, ← hs]
  · exact step_cons hs

/-- What a step can do: the engine's turn, a reset, or a host access, which a bus address only renames. -/
theorem step_cases {s t : State} (h : step s = .next t) :
    ∃ rest,
      (EngineTurn s rest ∧ engineStep { s with inbox := rest } = .next t) ∨
      (s.inbox = .reset :: rest ∧ t = ({ s with inbox := rest } : State).resetBlock) ∨
      (∃ a b : Access, (s.inbox = .host a :: rest ∨ s.inbox = .bus a :: rest) ∧ b.dir = a.dir ∧
        hostAccess { s with inbox := rest } b = .next t) := by
  cases hs : s.inbox with
  | nil => exact ⟨[], .inl ⟨.inl ⟨hs, rfl⟩, step_of_engineTurn (.inl ⟨hs, rfl⟩) ▸ h⟩⟩
  | cons e rest =>
    rw [step_cons hs] at h
    refine ⟨rest, ?_⟩
    cases e with
    | host a => exact .inr (.inr ⟨a, a, .inl rfl, rfl, h⟩)
    | bus a =>
      simp only [handleEvent] at h
      split at h
      · next off _ => exact .inr (.inr ⟨a, { a with addr := off }, .inr rfl, rfl, h⟩)
      · cases h
    | engine => exact .inl ⟨.inr hs, h⟩
    | reset => cases h; exact .inr (.inl ⟨rfl, rfl⟩)

theorem engineStep_of_pending {s : State} {c : Word} (h : s.pending = some c) : engineStep s = perform c s := by
  rw [engineStep, h]

theorem engineStep_of_idle {s : State} (h : s.pending = none) : engineStep s = .next s := by
  rw [engineStep, h]

/-! ## What a host access can do -/

theorem hostAccess_of_admitted {s : State} {a : Access} (ha : a.addr < Config.windowSize)
    (hf : accessFaults s a = []) : hostAccess s a = .next (admittedAccess s a) := by
  rw [hostAccess, if_pos ha, hf]

theorem hostAccess_of_faulty {s : State} {a : Access} (ha : a.addr < Config.windowSize)
    (hf : accessFaults s a ≠ []) :
    hostAccess s a =
      .next { s with faults := recordFaults (accessFaults s a) s.faults, reply := some .busError } := by
  rw [hostAccess, if_pos ha]
  cases h : accessFaults s a with
  | nil => exact absurd h hf
  | cons f fs => rfl

/-- An admitted access raises no fault of the map, and no write is admitted in flight. -/
theorem accessFaults_eq_nil {s : State} {a : Access} (h : accessFaults s a = []) :
    mapFault a = none ∧ (a.dir.isWrite = true → s.pending = none) := by
  have hno : ∀ f, f ∉ accessFaults s a := fun f => by simp [h]
  refine ⟨Option.eq_none_iff_forall_ne_some.2 fun f hf => hno f ((mem_accessFaults s a f).2 (.inl hf)), fun hw => ?_⟩
  by_contra hp
  exact hno _ ((mem_accessFaults s a _).2 (.inr ⟨hw, Option.isSome_iff_ne_none.2 hp, rfl⟩))

/-- An admitted access to the buffer window ends inside BUF (20_memory.md R60). -/
theorem bufAccess_inside {a : Access} (hm : mapFault a = none) (hlo : ¬ a.addr < Config.bufWindow)
    (hhi : a.addr < Config.windowSize) : a.addr - Config.bufWindow + a.width ≤ Config.bufCap := by
  rw [mapFault, if_neg hlo] at hm
  split_ifs at hm with hw
  obtain ⟨hw, halign⟩ := hw
  simp only [Config.bufWindow, Config.windowSize, Config.bufCap] at *
  rcases hw with hw | hw | hw <;> rw [hw] at halign ⊢ <;> omega

/-- A read changes nothing but what the host was answered and the counter of the free values. -/
theorem answerRead_frame (s : State) (u : Bool) (bits : Nat) (v : Word) :
    ∃ r d, answerRead s u bits v = { s with reply := r, draws := d } := by
  rw [answerRead]
  split_ifs
  · exact ⟨_, _, rfl⟩
  · exact ⟨_, s.draws, rfl⟩

/-- What a host access leaves: a read or a refused access at most adds to the fault set, and a write that is admitted
comes while idle and goes to a register or inside BUF. -/
theorem hostAccess_effect {s t : State} {a : Access} (h : hostAccess s a = .next t) :
    (∃ fs r d, t = { s with faults := recordFaults fs s.faults, reply := r, draws := d }) ∨
    (∃ v, a.dir = .write v ∧ s.pending = none ∧
      ((∃ r, t = { s.writeReg r v with reply := some .written }) ∨
       (∃ k n, k + n ≤ Config.bufCap ∧ t = { s.bufWrite k n v with reply := some .written }))) := by
  obtain ⟨hwin, ⟨hf, rfl⟩ | ⟨-, rfl⟩⟩ := hostAccess_cases h
  · obtain ⟨hmap, hidle⟩ := accessFaults_eq_nil hf
    have hread : ∀ u bits v, ∃ fs r d,
        answerRead s u bits v = { s with faults := recordFaults fs s.faults, reply := r, draws := d } :=
      fun u bits v => (answerRead_frame s u bits v).elim fun r ⟨d, hd⟩ => ⟨[], r, d, hd⟩
    rw [admittedAccess]
    split_ifs with hreg
    · cases Reg.ofOffset a.addr with
      | none => exact .inl ⟨[], s.reply, s.draws, rfl⟩
      | some r =>
        cases hd : a.dir with
        | read => exact .inl (hread _ _ _)
        | write v => exact .inr ⟨v, rfl, hidle (by rw [hd]; rfl), .inl ⟨r, rfl⟩⟩
    · cases hd : a.dir with
      | read => exact .inl (hread _ _ _)
      | write v =>
        exact .inr ⟨v, rfl, hidle (by rw [hd]; rfl), .inr ⟨_, _, bufAccess_inside hmap hreg hwin, rfl⟩⟩
  · exact .inl ⟨_, _, s.draws, rfl⟩

/-! ## What a command can do -/

/-- The errors a command can raise, with the information word of each (60_exceptions.md R200). -/
def RaisesWith (i : Instr) (e : ErrCode) (w : Word) : Prop :=
  match e with
  | .noError => False
  | .invalidInput => (i = .pcsum ∨ i = .calcChecksum) ∧ w.toNat ≠ Config.pageSize
  | .invalidPageType => i ∈ tagCommands ∧ (w = 0 ∨ 9 < w.toNat) ∧ w.toNat < 256
  | .illegalCommand => False
  | .lengthRange => i = .crc32 ∧ Config.bufCap < w.toNat

/-- `t` is a state that `i` can leave when it raises no error: RESULT, HDR and BUF alone are written, BUF inside the
command's store range (30_encoding.md R88) and its listing kept canonical (log 2). -/
structure Completes (i : Instr) (s t : State) : Prop where
  frame : t = { s with result := t.result, hdr := t.hdr, buf := t.buf }
  wf : Memory.wf s.buf = true → Memory.wf t.buf = true
  bytes : ∀ k, k < Config.bufCap → ¬((storeRange i).1 ≤ k ∧ k < (storeRange i).1 + (storeRange i).2) →
    t.bufByte k = s.bufByte k

namespace Completes

variable {i : Instr} {s t u : State}

theorem errcode (h : Completes i s t) : t.errcode = s.errcode := by rw [h.frame]
theorem errinfo (h : Completes i s t) : t.errinfo = s.errinfo := by rw [h.frame]
theorem pending (h : Completes i s t) : t.pending = s.pending := by rw [h.frame]
theorem faults (h : Completes i s t) : t.faults = s.faults := by rw [h.frame]

theorem trans (h : Completes i s t) (h' : Completes i t u) : Completes i s u where
  frame := h'.frame.trans (by rw [h.frame])
  wf hs := h'.wf (h.wf hs)
  bytes k hk hr := (h'.bytes k hk hr).trans (h.bytes k hk hr)

end Completes

theorem completes_setResult (i : Instr) (s : State) (v : Word) : Completes i s (s.setResult v) :=
  ⟨rfl, id, fun _ _ _ => rfl⟩

theorem completes_setHdr (i : Instr) (s : State) (h : Header) : Completes i s (s.setHdr h) :=
  ⟨rfl, id, fun _ _ _ => rfl⟩

/-- No command's store range leaves BUF. -/
theorem storeRange_inside (i : Instr) : (storeRange i).1 + (storeRange i).2 ≤ Config.bufCap := by
  cases i with
  | setDirty v | setPinned v => exact (by decide : 5 + 1 ≤ Config.bufCap)
  | _ => decide

/-- A write inside the command's store range. -/
theorem completes_bufWrite {i : Instr} {off n : Nat} (hlo : (storeRange i).1 ≤ off)
    (hhi : off + n ≤ (storeRange i).1 + (storeRange i).2) (s : State) (v : Word) :
    Completes i s (s.bufWrite off n v) where
  frame := rfl
  wf hs := State.bufWrite_wf hs (hhi.trans (storeRange_inside i)) v
  bytes k _ hk := by rw [State.bufByte_bufWrite, if_neg (by omega)]

theorem completes_packHeader (s : State) (h : Header) : Completes .hdrPack s (s.packHeader h) := by
  have field (f : HdrField) (s : State) (v : Word) : Completes .hdrPack s (s.setField f v) :=
    completes_bufWrite (Nat.zero_le _) (by cases f <;> decide) s v
  exact (field _ _ _).trans <| (field _ _ _).trans <| (field _ _ _).trans <| (field _ _ _).trans <|
    (field _ _ _).trans (field _ _ _)

theorem completes_zeroBuf (s : State) : Completes .pageNew s s.zeroBuf where
  frame := rfl
  wf _ := s.zeroBuf_wf
  bytes k hk hr := absurd ⟨Nat.zero_le k, hk⟩ hr

/-- What a command can do: complete within its frame, or raise one of its errors and do nothing else (60_exceptions.md
R201). -/
def Answers (i : Instr) (s : State) (o : Host.Outcome State Fault Refusal) : Prop :=
  (∃ t, o = .next t ∧ Completes i s t) ∨ (∃ e w, o = .next (s.raise e w) ∧ RaisesWith i e w)

theorem Completes.answers {i : Instr} {s t : State} (h : Completes i s t) : Answers i s (.next t) :=
  .inl ⟨t, rfl, h⟩

theorem RaisesWith.answers {i : Instr} {e : ErrCode} {w : Word} (h : RaisesWith i e w) (s : State) :
    Answers i s (.next (s.raise e w)) :=
  .inr ⟨e, w, rfl, h⟩

/-- An invalid tag, as the information word of its error. -/
theorem raisesWith_invalidTag {i : Instr} (hi : i ∈ tagCommands) {b : Byte} (hb : ¬ validTag b = true) :
    RaisesWith i .invalidPageType (b.setWidth 32) := by
  have hlt : b.toNat < 256 := b.isLt
  have hw : (b.setWidth 32).toNat = b.toNat := by rw [BitVec.toNat_setWidth]; omega
  have hrange : b.toNat = 0 ∨ 9 < b.toNat := by
    simp only [validTag, Bool.and_eq_true, decide_eq_true_eq] at hb
    omega
  refine ⟨hi, ?_, by omega⟩
  rw [hw, ← BitVec.toNat_inj, hw]
  exact hrange

/-- A length that is not a whole page, as the information word of its error. -/
theorem raisesWith_notWholePage {i : Instr} (hi : i = .pcsum ∨ i = .calcChecksum) {s : State}
    (hs : ¬ s.wholePage = true) : RaisesWith i .invalidInput s.len :=
  ⟨hi, fun h => hs (beq_iff_eq.2 h)⟩

theorem onValidTag_answers {i : Instr} (hi : i ∈ tagCommands) (v : Byte → Word) (s : State) :
    Answers i s (onValidTag v s) := by
  rw [onValidTag]
  split_ifs with h
  · exact (completes_setResult i s _).answers
  · exact (raisesWith_invalidTag hi h).answers s

theorem predicateOp_answers {i : Instr} (hi : i ∈ tagCommands) (cls : List Byte) (s : State) :
    Answers i s (predicateOp cls s) :=
  onValidTag_answers hi _ s

theorem fldSetOp_answers {i : Instr} {f : HdrField} (hi : storeRange i = (fieldOffset f, fieldWidth f)) (s : State) :
    Answers i s (fldSetOp f s) :=
  (completes_bufWrite (by rw [hi]) (by rw [hi]) s _).answers

theorem execCrc32_answers (s : State) : Answers .crc32 s (execCrc32 s) := by
  rw [execCrc32]
  split_ifs with h
  · exact RaisesWith.answers (e := .lengthRange) ⟨rfl, h⟩ s
  · exact (completes_setResult _ s _).answers

theorem execPcsum_answers (s : State) : Answers .pcsum s (execPcsum s) := by
  rw [execPcsum]
  split_ifs with h
  · exact (completes_setResult _ s _).answers
  · exact (raisesWith_notWholePage (.inl rfl) h).answers s

theorem execCalcChecksum_answers (s : State) : Answers .calcChecksum s (execCalcChecksum s) := by
  rw [execCalcChecksum]
  split_ifs with h
  · exact ((completes_bufWrite le_rfl le_rfl s _).trans (completes_setResult _ _ _)).answers
  · exact (raisesWith_notWholePage (.inr rfl) h).answers s

theorem execHdrNew_answers (s : State) : Answers .hdrNew s (execHdrNew s) := by
  rw [execHdrNew]
  split_ifs with h
  · exact (completes_setHdr _ s _).answers
  · exact (raisesWith_invalidTag (by decide) h).answers s

theorem execPageNew_answers (s : State) : Answers .pageNew s (execPageNew s) :=
  ((completes_zeroBuf s).trans ((completes_bufWrite (by decide) (by decide) _ _).trans
    (completes_bufWrite (by decide) (by decide) _ _))).answers

/-- What `exec` can do, command by command. -/
theorem exec_answers (i : Instr) (s : State) : Answers i s (exec i s) := by
  cases i with
  | crc32 => exact execCrc32_answers s
  | pcsum => exact execPcsum_answers s
  | calcChecksum => exact execCalcChecksum_answers s
  | pageNew => exact execPageNew_answers s
  | hdrNew => exact execHdrNew_answers s
  | hdrPack => exact (completes_packHeader s s.hdr).answers
  | hdrDefault | hdrUnpack => exact (completes_setHdr _ s _).answers
  | verify | iscorr | getDirty | getPinned => exact (completes_setResult _ s _).answers
  | fldGetPageId | fldGetPageType | fldGetFlags | fldGetFreeSpace | fldGetChecksum | fldGetLsn =>
    exact (completes_setResult _ s _).answers
  | fldSetPageId | fldSetPageType | fldSetFlags | fldSetFreeSpace | fldSetChecksum | fldSetLsn =>
    exact fldSetOp_answers rfl s
  | setDirty v | setPinned v => exact (completes_bufWrite le_rfl le_rfl s _).answers
  | typeDecode => exact onValidTag_answers (by decide) _ s
  | isBtree | isFreelist | isOverflow | isData | isMeta => exact predicateOp_answers (by decide) _ s

/-- A command that answered `t` completed, or raised an error. -/
theorem exec_cases {i : Instr} {s t : State} (h : exec i s = .next t) :
    Completes i s t ∨ ∃ e w, t = s.raise e w ∧ RaisesWith i e w := by
  rcases exec_answers i s with ⟨u, hu, hc⟩ | ⟨e, w, hu, hr⟩ <;> rw [hu] at h <;> cases h
  · exact .inl hc
  · exact .inr ⟨e, w, rfl, hr⟩

/-! ## The invariant -/

theorem decodesTo_of_decode {c : Word} {i : Instr} (h : decode c = .ok i) : decodesTo c i = true := by
  simp [decodesTo, h]

namespace State

variable {s : State}

/-- Nothing in flight, nothing to ask of the latch. -/
theorem latchClean_of_idle (h : s.pending = none) : s.LatchClean := fun c hc => by
  rw [h] at hc
  cases hc

/-- No error, nothing to explain. -/
theorem errorExplained_of_noError (h : s.errcode = .noError) : s.ErrorExplained := by
  rw [ErrorExplained, h]
  trivial

/-- The error of a command, once completed, is explained by that command in CMD (60_exceptions.md R200). -/
theorem errorExplained_of_raisesWith {i : Instr} {e : ErrCode} {w : Word} (hd : decode s.cmd = .ok i)
    (h : RaisesWith i e w) : (s.raise e w).complete.ErrorExplained := by
  have hi : decodesTo s.cmd i = true := decodesTo_of_decode hd
  cases e with
  | noError | illegalCommand => exact h.elim
  | invalidInput =>
    obtain ⟨rfl | rfl, hw⟩ := h
    · exact ⟨rfl, hw, Bool.or_eq_true_iff.2 (.inl hi)⟩
    · exact ⟨rfl, hw, Bool.or_eq_true_iff.2 (.inr hi)⟩
  | invalidPageType =>
    obtain ⟨hmem, hw, hlt⟩ := h
    exact ⟨rfl, hw, hlt, List.any_eq_true.2 ⟨i, hmem, hi⟩⟩
  | lengthRange =>
    obtain ⟨rfl, hw⟩ := h
    exact ⟨rfl, hw, hi⟩

theorem Inv.wf (h : s.Inv) : Memory.wf s.buf = true := h.1.1

theorem Inv.ordered (h : s.Inv) : faultsOrdered s.faults = true := h.1.2

/-- The invariant speaks of CMD, DONE, the error, BUF, the latch and the fault set only. -/
theorem Inv.congr {t : State} (h : s.Inv) (hcmd : t.cmd = s.cmd) (hdone : t.done = s.done)
    (herr : t.errcode = s.errcode) (hinfo : t.errinfo = s.errinfo) (hpend : t.pending = s.pending)
    (hbuf : Memory.wf t.buf = true) (hfaults : faultsOrdered t.faults = true) : t.Inv := by
  obtain ⟨-, hlatch, hexpl⟩ := h
  refine ⟨⟨hbuf, hfaults⟩, ?_, ?_⟩
  · rwa [LatchClean, hpend, hcmd, hdone, herr]
  · rwa [ErrorExplained, hcmd, hdone, herr, hinfo]

theorem reset_inv : State.reset.Inv :=
  ⟨⟨reset_wf, rfl⟩, latchClean_of_idle rfl, errorExplained_of_noError rfl⟩

theorem Inv.resetBlock (h : s.Inv) : s.resetBlock.Inv :=
  reset_inv.congr rfl rfl rfl rfl rfl rfl h.ordered

theorem Inv.issue (h : s.Inv) (c : Word) : (s.issue c).Inv :=
  ⟨h.1, fun _ hc => ⟨Option.some.inj hc, rfl, rfl⟩, errorExplained_of_noError rfl⟩

/-- A register write issues a command or touches nothing the invariant speaks of. -/
theorem Inv.writeReg (h : s.Inv) (r : Reg) (v : Word) : (s.writeReg r v).Inv := by
  cases r with
  | cmd => exact h.issue v
  | _ => exact h

theorem Inv.bufWrite (h : s.Inv) {off n : Nat} (hn : off + n ≤ Config.bufCap) (v : Word) : (s.bufWrite off n v).Inv :=
  h.congr rfl rfl rfl rfl rfl (bufWrite_wf h.wf hn v) h.ordered

end State

/-- A host access keeps the invariant. -/
theorem hostAccess_inv {s t : State} {a : Access} (hs : s.Inv) (h : hostAccess s a = .next t) : t.Inv := by
  rcases hostAccess_effect h with ⟨fs, r, d, rfl⟩ | ⟨v, -, -, ⟨r, rfl⟩ | ⟨k, n, hn, rfl⟩⟩
  · exact hs.congr rfl rfl rfl rfl rfl hs.wf (recordFaults_ordered fs hs.ordered)
  · exact hs.writeReg r v
  · exact hs.bufWrite hn v

/-- The engine's turn keeps the invariant: the clean latch ties the decoded word to CMD and says that no error stood
before the command. -/
theorem engineStep_inv {s t : State} (hs : s.Inv) (h : engineStep s = .next t) : t.Inv := by
  have ⟨⟨hbuf, hfaults⟩, hlatch, _⟩ := hs
  rcases engineStep_cases h with ⟨-, rfl⟩ | ⟨c, i, u, hp, hd, hu, rfl⟩ | ⟨c, e, hp, hd, rfl⟩
  · exact hs
  · obtain ⟨rfl, -, herr⟩ := hlatch c hp
    rcases exec_cases hu with hc | ⟨e, w, rfl, hr⟩
    · refine ⟨⟨hc.wf hbuf, ?_⟩, State.latchClean_of_idle hc.pending,
        State.errorExplained_of_noError (hc.errcode.trans herr)⟩
      rw [State.complete_faults, hc.faults]
      exact hfaults
    · exact ⟨⟨hbuf, hfaults⟩, State.latchClean_of_idle rfl, State.errorExplained_of_raisesWith (s := s.unlatch) hd hr⟩
  · obtain ⟨rfl, -, -⟩ := hlatch c hp
    exact ⟨⟨hbuf, hfaults⟩, State.latchClean_of_idle rfl, rfl, rfl, wellFormed_of_decode_error hd⟩

/-- Settles O4: the three kinds of step keep the invariant, which no step's taking of an event touches. -/
theorem stepKeepsInvariant : Obligations.StepKeepsInvariant := by
  intro s t hs h
  obtain ⟨rest, hstep⟩ := step_cases h
  have hs' : ({ s with inbox := rest } : State).Inv := hs
  rcases hstep with ⟨-, he⟩ | ⟨-, rfl⟩ | ⟨a, b, -, -, ha⟩
  · exact engineStep_inv hs' he
  · exact hs'.resetBlock
  · exact hostAccess_inv hs' ha

/-- Settles O5: nothing is listed, latched or in error after reset. -/
theorem resetMeetsInvariant : Obligations.ResetMeetsInvariant := State.reset_inv

/-! ## The error word and the flags byte -/

theorem State.writeReg_errinfo (s : State) (r : Reg) (v : Word) : (s.writeReg r v).errinfo = s.errinfo := by
  cases r <;> rfl

/-- No host access changes ERRINFO. -/
theorem hostAccess_errinfo {s t : State} {a : Access} (h : hostAccess s a = .next t) : t.errinfo = s.errinfo := by
  rcases hostAccess_effect h with ⟨fs, r, d, rfl⟩ | ⟨v, -, -, ⟨r, rfl⟩ | ⟨k, n, -, rfl⟩⟩
  · rfl
  · exact s.writeReg_errinfo r v
  · rfl

/-- Only a write changes a byte of BUF through the host port. -/
theorem hostAccess_bufByte_of_read {s t : State} {a : Access} (h : hostAccess s a = .next t) (ha : a.dir = .read)
    (k : Nat) : t.bufByte k = s.bufByte k := by
  rcases hostAccess_effect h with ⟨fs, r, d, rfl⟩ | ⟨v, hw, -⟩
  · rfl
  · rw [ha] at hw
    cases hw

theorem RaisesWith.ne_noError {i : Instr} {e : ErrCode} {w : Word} (h : RaisesWith i e w) : e ≠ .noError := by
  rintro rfl
  exact h

/-- An engine step that changes ERRINFO performed a command and leaves an error. -/
theorem engineStep_errinfo {s t : State} (h : engineStep s = .next t) (hne : t.errinfo ≠ s.errinfo) :
    s.pending ≠ none ∧ t.done = true ∧ t.errcode ≠ .noError := by
  rcases engineStep_cases h with ⟨-, rfl⟩ | ⟨c, i, u, hp, -, hu, rfl⟩ | ⟨c, e, hp, -, rfl⟩
  · exact absurd rfl hne
  · rcases exec_cases hu with hc | ⟨e, w, rfl, hr⟩
    · exact absurd hc.errinfo hne
    · exact ⟨by simp [hp], rfl, hr.ne_noError⟩
  · exact ⟨by simp [hp], rfl, by simp⟩

/-- An engine step that changes a byte of BUF performed a command whose store range holds it. -/
theorem engineStep_bufByte {s t : State} (h : engineStep s = .next t) {k : Nat} (hk : k < Config.bufCap)
    (hne : t.bufByte k ≠ s.bufByte k) :
    ∃ c i, s.pending = some c ∧ decode c = .ok i ∧
      (storeRange i).1 ≤ k ∧ k < (storeRange i).1 + (storeRange i).2 := by
  rcases engineStep_cases h with ⟨-, rfl⟩ | ⟨c, i, u, hp, hd, hu, rfl⟩ | ⟨c, e, -, -, rfl⟩
  · exact absurd rfl hne
  · refine ⟨c, i, hp, hd, ?_⟩
    rcases exec_cases hu with hc | ⟨e, w, rfl, -⟩
    · by_contra hr
      exact hne (hc.bytes k hk hr)
    · exact absurd rfl hne
  · exact absurd rfl hne

/-- The commands whose store range holds the header flags byte (10_state.md R38). -/
theorem flagsWriter_of_storeRange {i : Instr} (h : (storeRange i).1 ≤ 5 ∧ 5 < (storeRange i).1 + (storeRange i).2) :
    i ∈ [Instr.pageNew, .hdrPack, .fldSetFlags, .setDirty true, .setDirty false, .setPinned true, .setPinned false] := by
  cases i with
  | setDirty v | setPinned v => cases v <;> decide
  | _ => revert h; decide

/-- Settles O10: the engine's errors and the reset are the only steps that write ERRINFO. -/
theorem errinfoChangesOnlyByErrorOrReset : Obligations.ErrinfoChangesOnlyByErrorOrReset := by
  intro s t h hne
  obtain ⟨rest, ⟨hturn, he⟩ | ⟨hreset, -⟩ | ⟨a, b, -, -, ha⟩⟩ := step_cases h
  · exact .inr ⟨⟨rest, hturn⟩, engineStep_errinfo (s := { s with inbox := rest }) he hne⟩
  · exact .inl ⟨rest, hreset⟩
  · exact absurd (hostAccess_errinfo ha) hne

/-- Settles O11: a command writes inside its store range, a host read writes nothing. -/
theorem headerFlagsChangeOnlyByNamedEvents : Obligations.HeaderFlagsChangeOnlyByNamedEvents := by
  intro s t h hne
  obtain ⟨rest, ⟨hturn, he⟩ | ⟨hreset, -⟩ | ⟨a, b, hin, hdir, ha⟩⟩ := step_cases h
  · obtain ⟨c, i, hp, hd, hr⟩ := engineStep_bufByte he (by decide) hne
    exact .inr (.inr ⟨rest, c, i, hturn, hp, hd, flagsWriter_of_storeRange hr⟩)
  · exact .inl ⟨rest, hreset⟩
  · exact .inr (.inl ⟨a, rest, hin, fun hread => hne (hostAccess_bufByte_of_read ha (hdir.trans hread) 5)⟩)

/-! ## The engine's turn and the CMD write -/

/-- Settles O6: an engine step is `perform` of the latched word, whose two cases are the decoder's. -/
theorem stepPerformsTheDecodedCommand : Obligations.StepPerformsTheDecodedCommand := by
  intro s rest hturn
  rw [step_of_engineTurn hturn]
  refine ⟨fun c i hp hd => ?_, fun c e hp hd => ?_, fun hp => ?_⟩
  · rw [engineStep_of_pending (s := { s with inbox := rest }) hp, perform_ok hd]
    rfl
  · rw [engineStep_of_pending (s := { s with inbox := rest }) hp, perform_error hd]
    rfl
  · exact engineStep_of_idle hp

/-- Any word access to CMD is one the map admits (20_memory.md R60). -/
theorem mapFault_cmd (d : Dir) : mapFault { addr := 0x008, width := 4, dir := d } = none := by
  simp [mapFault, Reg.ofOffset, Reg.readOnly]

theorem accessFaults_cmdRead (s : State) : accessFaults s { addr := 0x008, width := 4, dir := .read } = [] := by
  rw [accessFaults, mapFault_cmd]
  rfl

/-- A CMD write records nothing while idle, and in flight that it came in flight (70_reset_and_hazards.md R241). -/
theorem accessFaults_cmdWrite (s : State) (c : Word) :
    accessFaults s { addr := 0x008, width := 4, dir := .write c } =
      if s.pending = none then [] else [.writeWhileBusy 0x008] := by
  rw [accessFaults, mapFault_cmd, State.busy]
  cases s.pending <;> rfl

/-- Settles O20: an idle CMD write is `issue`, the read after it answers the word, and one in flight is only
recorded. -/
theorem cmdWriteIssuesTheCommand : Obligations.CmdWriteIssuesTheCommand := by
  have hwin : 0x008 < Config.windowSize := by decide
  refine ⟨rfl, fun s c rest hidle hin => ⟨_, ?_, rfl, ?_⟩, fun s c rest hbusy hin => ?_⟩
  · rw [step_cons hin]
    exact hostAccess_of_admitted hwin ((accessFaults_cmdWrite _ c).trans (if_pos hidle))
  · rw [step_cons rfl]
    exact hostAccess_of_admitted hwin (accessFaults_cmdRead _)
  · have hf := (accessFaults_cmdWrite { s with inbox := rest } c).trans (if_neg hbusy)
    rw [step_cons hin, handleEvent, hostAccess_of_faulty hwin (by rw [hf]; exact List.cons_ne_nil _ _), hf]
    refine ⟨_, rfl, fun f => ?_⟩
    rw [mem_recordFaults, List.mem_singleton, or_comm]

end Sys2Proof.Machine

/-! # Proofs for 20_memory.md: what the host port admits, answers, stores and records -/

namespace Sys2Proof

/-- A command's word decodes to the command (30_encoding.md R84 to R86). -/
theorem decode_encode (i : Instr) : decode (encode i) = .ok i := by
  cases i with
  | setDirty v | setPinned v => cases v <;> rfl
  | _ => rfl

end Sys2Proof

namespace Sys2Proof.Machine

/-- The state with another list of events and another answer (log 5, 7): all that a register read changes, and what no
command sees. -/
def State.withEnv (s : State) (es : List Event) (r : Option Reply) : State := { s with inbox := es, reply := r }

/-! ## Register accesses as steps -/

/-- Every register lies below the buffer window, on a word boundary (10_state.md R21). -/
theorem Reg.offset_spec (r : Reg) : r.offset < Config.bufWindow ∧ r.offset % 4 = 0 := by cases r <;> decide

theorem Reg.offset_lt_windowSize (r : Reg) : r.offset < Config.windowSize :=
  r.offset_spec.1.trans (by decide)

/-- A word access to a register breaks the map's rules only as a write of an RO register (20_memory.md R60, R62). -/
theorem mapFault_reg (r : Reg) (d : Dir) :
    mapFault { addr := r.offset, width := 4, dir := d } =
      if d.isWrite && r.readOnly then some (.busReadonly r.offset) else none := by
  obtain ⟨hreg, halign⟩ := r.offset_spec
  simp [mapFault, hreg, halign, Reg.ofOffset_offset]

/-- An access that the map admits records nothing, if it is a read or comes while idle. -/
theorem accessFaults_of_mapFault_none {s : State} {a : Access} (hm : mapFault a = none)
    (hw : a.dir.isWrite = true → s.pending = none) : accessFaults s a = [] := by
  refine List.eq_nil_iff_forall_not_mem.2 fun f hf => ?_
  rcases (mem_accessFaults s a f).1 hf with h | ⟨hwrite, hbusy, -⟩
  · rw [hm] at h
    cases h
  · rw [State.busy, hw hwrite] at hbusy
    cases hbusy

/-- An admitted host access, as a step. -/
theorem step_of_admitted {s : State} {a : Access} {rest : List Event} (h : s.inbox = .host a :: rest)
    (hwin : a.addr < Config.windowSize) (hm : mapFault a = none) (hw : a.dir.isWrite = true → s.pending = none) :
    step s = .next (admittedAccess { s with inbox := rest } a) := by
  rw [step_cons h]
  exact hostAccess_of_admitted hwin (accessFaults_of_mapFault_none hm hw)

theorem admittedAccess_reg (s : State) (r : Reg) (d : Dir) :
    admittedAccess s { addr := r.offset, width := 4, dir := d } = regAccess s r d := by
  simp only [admittedAccess, r.offset_spec.1, if_true, Reg.ofOffset_offset]

/-- A read that is not open, or comes while idle, is answered exactly (70_reset_and_hazards.md R242). -/
theorem answerRead_exact {s : State} {undefined : Bool} (h : s.pending = none ∨ undefined = false) (bits : Nat)
    (v : Word) : answerRead s undefined bits v = { s with reply := some (.data v) } := by
  rw [answerRead, if_neg]
  rcases h with h | h <;> simp [State.busy, h]

/-- A register read as a step: the register's value and nothing else (20_memory.md R61). -/
theorem step_regRead {s : State} {r : Reg} {rest : List Event}
    (h : s.inbox = .host { addr := r.offset, width := 4, dir := .read } :: rest)
    (hexact : s.pending = none ∨ r.openInFlight = false) :
    step s = .next (s.withEnv rest (some (.data (s.readReg r)))) := by
  rw [step_of_admitted h r.offset_lt_windowSize (mapFault_reg r .read) (by simp [Dir.isWrite]), admittedAccess_reg,
    regAccess, answerRead_exact (s := { s with inbox := rest }) hexact]
  cases r <;> rfl

/-- An idle write of a register that is not RO, as a step (20_memory.md R62). -/
theorem step_regWrite {s : State} {r : Reg} {v : Word} {rest : List Event}
    (h : s.inbox = .host { addr := r.offset, width := 4, dir := .write v } :: rest) (hidle : s.pending = none)
    (hrw : r.readOnly = false) :
    step s = .next ((s.writeReg r v).withEnv rest (some .written)) := by
  rw [step_of_admitted h r.offset_lt_windowSize (by simp [mapFault_reg, hrw]) (fun _ => hidle), admittedAccess_reg]
  cases r <;> rfl

/-! ## Register reads and writes -/

/-- The STATUS word is the sum of its fields (10_state.md R25, R35). -/
theorem State.toNat_status (s : State) : s.status.toNat = statusNumber s := by
  have fields (p d : Bool) (e : ErrCode) :
      ((0 : BitVec 20) ++ e.code ++ (0 : BitVec 5) ++ BitVec.ofBool (e.code != 0) ++ BitVec.ofBool d ++
        BitVec.ofBool p).toNat =
      (if p then 1 else 0) + (if d then 2 else 0) + (if errNumber e = 0 then 0 else 4) + 256 * errNumber e := by
    cases p <;> cases d <;> cases e <;> rfl
  rw [statusNumber, State.status, State.busy, State.err, fields]
  cases s.pending <;> rfl

/-- The registers in the order of their offsets (10_state.md R21). -/
def Reg.rows : List Reg :=
  [.caps, .bufcap, .cmd, .status, .errinfo, .len, .arg0, .arg1, .result,
   .hdrPageId, .hdrType, .hdrFlags, .hdrFree, .hdrCksum, .hdrLsn]

/-- The table of what the registers read is the register map with `readReg`. -/
theorem registerTable_eq (s : State) :
    registerTable s = Reg.rows.map fun r => (r.offset, (s.readReg r).toNat) := by
  have zext8 (b : Byte) : (b.setWidth 32).toNat = b.toNat := BitVec.toNat_setWidth_of_le (by decide)
  have zext16 (h : Half) : (h.setWidth 32).toNat = h.toNat := BitVec.toNat_setWidth_of_le (by decide)
  simp [registerTable, Reg.rows, Reg.offset, State.readReg, State.toNat_status, zext8, zext16, Config.pageSize,
    Config.bufCap]

/-- The registers whose reads stay exact in flight (70_reset_and_hazards.md R242). -/
theorem Reg.openInFlight_of_offset {r : Reg} (h : r.offset ∈ [0x000, 0x004, 0x008, 0x00C, 0x014, 0x018, 0x01C]) :
    r.openInFlight = false := by
  cases r <;> revert h <;> decide

/-- Settles O17: the table's row is a register with its value, and the offsets named are the registers whose reads
stay exact in flight. -/
theorem registerReadsAnswerExactly : Obligations.RegisterReadsAnswerExactly := by
  intro s rest p hp hin hexact
  rw [registerTable_eq, List.mem_map] at hp
  obtain ⟨r, -, rfl⟩ := hp
  rw [BitVec.ofNat_toNat, BitVec.setWidth_eq]
  exact step_regRead hin (hexact.imp_right Reg.openInFlight_of_offset)

/-- A row of the write table is an RW register with what `writeReg` leaves. -/
theorem exists_reg_of_mem_registerWriteTable {s : State} {v : Word} {p : Nat × State}
    (h : p ∈ registerWriteTable s v) : ∃ r : Reg, r.readOnly = false ∧ p = (r.offset, s.writeReg r v) := by
  have low8 : BitVec.ofNat 8 (v.toNat % 256) = v.setWidth 8 := BitVec.eq_of_toNat_eq (by simp)
  have low16 : BitVec.ofNat 16 (v.toNat % 65536) = v.setWidth 16 := BitVec.eq_of_toNat_eq (by simp)
  simp only [registerWriteTable, low8, low16, List.mem_cons, List.not_mem_nil, or_false] at h
  rcases h with h | h | h | h | h | h | h | h | h
  exacts [⟨.len, rfl, h⟩, ⟨.arg0, rfl, h⟩, ⟨.arg1, rfl, h⟩, ⟨.hdrPageId, rfl, h⟩, ⟨.hdrType, rfl, h⟩,
    ⟨.hdrFlags, rfl, h⟩, ⟨.hdrFree, rfl, h⟩, ⟨.hdrCksum, rfl, h⟩, ⟨.hdrLsn, rfl, h⟩]

/-- Settles O19: each row of the table is what an idle write of its register leaves. -/
theorem registerWritesKeepTheWidth : Obligations.RegisterWritesKeepTheWidth := by
  intro s rest v p hidle hp hin
  obtain ⟨r, hrw, rfl⟩ := exists_reg_of_mem_registerWriteTable hp
  exact step_regWrite hin hidle hrw

/-! ## The buffer window -/

theorem mapFault_buf {k n : Nat} (hn : n = 1 ∨ n = 2 ∨ n = 4) (halign : k % n = 0) (d : Dir) :
    mapFault { addr := Config.bufWindow + k, width := n, dir := d } = none := by
  have halign' : (Config.bufWindow + k) % n = 0 := by
    simp only [Config.bufWindow]
    rcases hn with rfl | rfl | rfl <;> omega
  rw [mapFault, if_neg (Nat.not_lt.2 (Nat.le_add_right _ _)), if_pos ⟨hn, halign'⟩]

/-- An aligned access to the buffer window, as a step (20_memory.md R63, R64). -/
theorem step_bufAccess {s : State} {k n : Nat} {d : Dir} {rest : List Event}
    (h : s.inbox = .host { addr := Config.bufWindow + k, width := n, dir := d } :: rest) (hidle : s.pending = none)
    (hn : n = 1 ∨ n = 2 ∨ n = 4) (hk : k < Config.bufCap) (halign : k % n = 0) :
    step s = .next (bufAccess { s with inbox := rest } k n d) := by
  rw [step_of_admitted h (Nat.add_lt_add_left hk _) (mapFault_buf hn halign d) fun _ => hidle, admittedAccess,
    if_neg (Nat.not_lt.2 (Nat.le_add_right _ _))]
  dsimp only
  rw [Nat.add_sub_cancel_left]

/-- At most four bytes as a word: the number with these digits to the base 256 (20_memory.md R55). The bytes after the
first stay below 256 ^ 3, so shifting them up loses no bit. -/
theorem toNat_leWord (bs : List Byte) (h : bs.length ≤ 4) :
    (leWord bs).toNat = Nat.ofDigits 256 (bs.map BitVec.toNat) := by
  induction bs with
  | nil => rfl
  | cons b bs ih =>
    rw [List.length_cons] at h
    have hlt : Nat.ofDigits 256 (bs.map BitVec.toNat) < 256 ^ 3 :=
      (Nat.ofDigits_lt_base_pow_length (by decide) (by simpa using fun b _ => b.isLt)).trans_le
        (Nat.pow_le_pow_right (by decide) (by rw [List.length_map]; omega))
    have hb : b.toNat < 2 ^ 8 := b.isLt
    rw [leWord_cons, BitVec.toNat_or, BitVec.toNat_shiftLeft, ih (by omega), BitVec.toNat_setWidth_of_le (by decide),
      Nat.mod_eq_of_lt (by rw [Nat.shiftLeft_eq]; omega), Nat.or_comm, ← Nat.shiftLeft_add_eq_or_of_lt hb,
      Nat.shiftLeft_eq, List.map_cons, Nat.ofDigits_cons]
    omega

/-- The number held in BUF, by its digits. -/
theorem State.bufNat_eq_ofDigits (s : State) (k n : Nat) :
    s.bufNat k n = Nat.ofDigits 256 ((s.bytes k n).map BitVec.toNat) := by
  rw [State.bufNat, State.bytes_eq, Nat.ofDigits_eq_sum_mapIdx]
  congr 1
  refine List.ext_getElem (by simp) fun i _ _ => by simp

/-- `BufRead` of at most four bytes is their little-endian number (20_memory.md R55). -/
theorem State.toNat_bufRead (s : State) (k : Nat) {n : Nat} (hn : n ≤ 4) : (s.bufRead k n).toNat = s.bufNat k n := by
  rw [State.bufRead, toNat_leWord _ (by simpa using hn), State.bufNat_eq_ofDigits]

/-- Settles O21: an idle read of the buffer window answers `BufRead`. -/
theorem bufferReadsAreLittleEndian : Obligations.BufferReadsAreLittleEndian := by
  intro s rest k n hidle hn hk halign hin
  refine ⟨s.bufRead k n, s.toNat_bufRead k (by omega), ?_⟩
  rw [step_bufAccess hin hidle hn hk halign, bufAccess,
    answerRead_exact (s := { s with inbox := rest }) (.inl hidle)]
  rfl

/-- `BufWrite` stores the bytes of the value and writes nothing else (20_memory.md R64). -/
theorem storesOnly_bufWrite (s : State) (off n : Nat) (v : Word) : StoresOnly s (s.bufWrite off n v) off n v := by
  refine ⟨s.bufWrite_frame off n v, fun k => ?_⟩
  rw [State.bufByte_bufWrite, ← BitVec.ofNat_toNat, BitVec.toNat_ushiftRight, Nat.shiftRight_eq_div_pow, Nat.pow_mul]

/-- Settles O22: an idle write to the buffer window is `BufWrite`. -/
theorem bufferWritesAreLittleEndian : Obligations.BufferWritesAreLittleEndian := by
  intro s rest k n v hidle hn hk halign hin
  exact ⟨_, step_bufAccess hin hidle hn hk halign,
    storesOnly_bufWrite { s with inbox := rest, reply := some .written } k n v⟩

/-! ## The window on the platform's bus -/

/-- A bus address inside the window, by its offset (20_memory.md R50). -/
theorem windowOffset_base_add {off : Nat} (h : off < Config.windowSize) :
    windowOffset (Config.base + off) = some off := by
  rw [windowOffset, if_pos ⟨Nat.le_add_right _ _, Nat.add_lt_add_left h _⟩, Nat.add_sub_cancel_left]

theorem windowOffset_eq_none {addr : Nat} (h : addr < Config.base ∨ Config.base + 0x1FFF < addr) :
    windowOffset addr = none := by
  rw [windowOffset, if_neg]
  simp only [Config.windowSize]
  omega

/-- Settles O27: the bus address has no window offset. -/
theorem accessOutsideTheWindowIsRefused : Obligations.AccessOutsideTheWindowIsRefused := by
  intro s a rest hin hout
  simp only [step_cons hin, handleEvent, windowOffset_eq_none hout]

/-- Settles O28: BASE counts whole windows, and the offset of a bus access is its distance from BASE. -/
theorem windowLiesAtBase : Obligations.WindowLiesAtBase := by
  have hbase : 0x2000 ∣ Config.base := Nat.dvd_mul_right _ _
  have hbuf : 4096 ∣ Config.base + 0x1000 := Nat.dvd_add (Nat.dvd_trans ⟨2, rfl⟩ hbase) (Nat.dvd_refl _)
  refine ⟨Nat.mod_eq_zero_of_dvd hbase, Nat.mod_eq_zero_of_dvd hbuf, fun s off n d rest hoff hin => ?_⟩
  rw [step_cons hin, step_cons (s := { s with inbox := _ }) rfl]
  simp only [handleEvent, windowOffset_base_add hoff]

/-! ## Which accesses are recorded -/

theorem Dir.isWrite_iff (d : Dir) : d.isWrite = true ↔ d ≠ .read := by cases d <;> simp [Dir.isWrite]

/-- The faults recorded are those that the spec's rules name (20_memory.md R62, R65, R66; 70_reset_and_hazards.md
R241). -/
theorem mem_accessFaults_iff_records (s : State) (a : Access) (f : HostFault) :
    f ∈ accessFaults s a ↔ Records s a f := by
  rw [mem_accessFaults, mapFault_iff, Records, State.busy, Option.isSome_iff_ne_none, Dir.isWrite_iff,
    and_rotate (a := f = .writeWhileBusy a.addr)]
  simp only [List.mem_cons, List.not_mem_nil, or_false, or_assoc]

/-- Settles O15: an access with a fault to record does nothing but record its faults. -/
theorem faultyAccessIsOnlyRecorded : Obligations.FaultyAccessIsOnlyRecorded := by
  rintro s a rest hin hwin ⟨f, hf⟩
  have hrec (g : HostFault) : g ∈ accessFaults { s with inbox := rest } a ↔ Records s a g :=
    mem_accessFaults_iff_records _ a g
  refine ⟨recordFaults (accessFaults { s with inbox := rest } a) s.faults, ?_, fun g => ?_⟩
  · rw [step_cons hin]
    exact hostAccess_of_faulty hwin (List.ne_nil_of_mem ((hrec f).2 hf))
  · rw [mem_recordFaults, hrec, or_comm]

theorem answerRead_faults (s : State) (u : Bool) (bits : Nat) (v : Word) :
    (answerRead s u bits v).faults = s.faults := by
  obtain ⟨r, d, h⟩ := answerRead_frame s u bits v
  rw [h]

/-- An admitted access records nothing. -/
theorem admittedAccess_faults (s : State) (a : Access) : (admittedAccess s a).faults = s.faults := by
  rw [admittedAccess]
  split_ifs
  · cases Reg.ofOffset a.addr with
    | none => rfl
    | some r =>
      cases a.dir with
      | read => exact answerRead_faults _ _ _ _
      | write v => cases r <;> rfl
  · cases a.dir with
    | read => exact answerRead_faults _ _ _ _
    | write v => rfl

/-- From a launch state an access leaves exactly the map's fault in the fault set. -/
theorem step_faults_of_launch {s : State} {a : Access} {rest : List Event} (hs : s.Launch)
    (hin : s.inbox = .host a :: rest) (hwin : a.addr < Config.windowSize) :
    ∃ t, step s = .next t ∧ t.faults = (mapFault a).toList := by
  obtain ⟨hfaults, hidle⟩ := hs
  have hf : accessFaults { s with inbox := rest } a = (mapFault a).toList := by
    simp [accessFaults, State.busy, hidle]
  cases hm : mapFault a with
  | none => exact ⟨_, step_of_admitted hin hwin hm fun _ => hidle, (admittedAccess_faults _ a).trans hfaults⟩
  | some f =>
    rw [hm] at hf
    rw [step_cons hin, handleEvent, hostAccess_of_faulty hwin (by rw [hf]; exact List.cons_ne_nil _ _), hf]
    exact ⟨_, rfl, by rw [hfaults]; rfl⟩

/-- The map passes an access, or finds no more than a write of an RO register, exactly when 20_memory.md R60 lists
it. -/
theorem mapFault_listed_iff (a : Access) (hwin : a.addr < Config.windowSize) :
    (mapFault a = none ∨ mapFault a = some (.busReadonly a.addr)) ↔
      (a.width = 4 ∧ a.addr % 4 = 0 ∧ a.addr ≤ 0x038) ∨
      ((a.width = 1 ∨ a.width = 2 ∨ a.width = 4) ∧ a.addr % a.width = 0 ∧ 0x1000 ≤ a.addr ∧ a.addr ≤ 0x1FFF) := by
  have hmis := mapFault_iff a (.busMisaligned a.addr a.width)
  have hunm := mapFault_iff a (.busUnmapped a.addr)
  simp only [true_and, reduceCtorEq, false_and, or_false, false_or] at hmis hunm
  have hpass : (mapFault a = none ∨ mapFault a = some (.busReadonly a.addr)) ↔
      ¬ mapFault a = some (.busMisaligned a.addr a.width) ∧ ¬ mapFault a = some (.busUnmapped a.addr) := by
    cases hm : mapFault a with
    | none => simp
    | some f => rcases (mapFault_iff a f).1 hm with ⟨rfl, -⟩ | ⟨rfl, -⟩ | ⟨rfl, -⟩ <;> simp
  rw [hpass, hmis, hunm]
  simp only [Config.windowSize] at hwin
  omega

/-- Settles O16: what an access leaves in an empty fault set is the map's verdict on it. -/
theorem admittedAccessesAreTheListedOnes : Obligations.AdmittedAccessesAreTheListedOnes := by
  intro s a rest hs hin hwin
  obtain ⟨t, hstep, hf⟩ := step_faults_of_launch hs hin hwin
  refine ⟨t, hstep, ?_⟩
  rw [hf, ← mapFault_listed_iff a hwin]
  cases mapFault a <;> simp

/-! ## Reads have no side effect -/

/-- An access that answers a next state, on the host port or on the bus, is an access at a window offset. -/
theorem hostAccess_of_step {s t : State} {a : Access} {rest : List Event}
    (hin : s.inbox = .host a :: rest ∨ s.inbox = .bus a :: rest) (h : step s = .next t) :
    ∃ off, hostAccess { s with inbox := rest } { a with addr := off } = .next t := by
  rcases hin with hin | hin <;> rw [step_cons hin] at h
  · exact ⟨a.addr, h⟩
  · simp only [handleEvent] at h
    split at h
    · next off _ => exact ⟨off, h⟩
    · cases h

/-- Settles O24: what a host access leaves, when it is a read. -/
theorem readsHaveNoSideEffect : Obligations.ReadsHaveNoSideEffect := by
  intro s t a rest hread hin h
  obtain ⟨off, ha⟩ := hostAccess_of_step hin h
  rcases hostAccess_effect ha with ⟨fs, r, d, rfl⟩ | ⟨v, hw, -⟩
  · rfl
  · exact absurd (hread.symm.trans hw) (by simp)

/-! ## RUN and the poll -/

/-- A two-way answer carries the environment along. -/
theorem ite_next_withEnv {p : Prop} [Decidable p] {t e u : State}
    (h : (if p then (.next t : Host.Outcome State Fault Refusal) else .next e) = .next u) (es : List Event)
    (r : Option Reply) :
    (if p then (.next (t.withEnv es r) : Host.Outcome State Fault Refusal) else .next (e.withEnv es r)) =
      .next (u.withEnv es r) := by
  split_ifs at h ⊢ <;> cases h <;> rfl

/-- No command reads or writes the environment's fields: a command that can raise an error decides so by LEN or the tag
in ARG0, which the environment does not touch. -/
theorem exec_withEnv {i : Instr} {s u : State} (h : exec i s = .next u) (es : List Event) (r : Option Reply) :
    exec i (s.withEnv es r) = .next (u.withEnv es r) := by
  cases i with
  | crc32 => exact ite_next_withEnv (p := s.length > Config.bufCap) h es r
  | pcsum | calcChecksum => exact ite_next_withEnv (p := s.wholePage = true) h es r
  | hdrNew | typeDecode | isBtree | isFreelist | isOverflow | isData | isMeta =>
    exact ite_next_withEnv (p := validTag s.tagArg = true) h es r
  | _ => cases h; rfl

/-- A run takes its first step first. -/
theorem run_succ {s t : State} (h : step s = .next t) (n : Nat) :
    Host.Core.run core (n + 1) s = Host.Core.run core n t := by
  simp only [Host.Core.run, show core.step s = .next t from h]

/-- STATUS reads, as many as there are, change nothing but the answer, idle or in flight. -/
theorem run_statusReads (k n : Nat) {s : State} {es : List Event}
    (h : s.inbox = List.replicate k (rd32 .status) ++ es) :
    ∃ r, Host.Core.run core (k + n) s = Host.Core.run core n (s.withEnv es r) := by
  induction k generalizing s with
  | zero =>
    obtain rfl : s.inbox = es := h
    exact ⟨s.reply, by rw [Nat.zero_add]; rfl⟩
  | succ k ih =>
    obtain ⟨r, hr⟩ := ih (s := s.withEnv (List.replicate k (rd32 .status) ++ es) (some (.data s.status))) rfl
    rw [Nat.succ_add]
    exact ⟨r, (run_succ (step_regRead (r := .status) h (.inr rfl)) (k + n)).trans hr⟩

/-- The engine's turn with a command's word in the latch: the command, then `complete` (10_state.md R33). -/
theorem step_of_encode_pending {s u : State} {i : Instr} {rest : List Event} (hturn : s.inbox = .engine :: rest)
    (hp : s.pending = some (encode i)) (hu : exec i s.unlatch = .next u) :
    step s = .next (u.withEnv rest s.reply).complete := by
  have hexec : exec i ({ s with inbox := rest } : State).unlatch = .next (u.withEnv rest s.reply) :=
    exec_withEnv hu rest s.reply
  rw [step_cons hturn, handleEvent, engineStep_of_pending (s := { s with inbox := rest }) hp,
    perform_ok (decode_encode i), hexec, thenComplete_next]

/-- What is left of an idle state by a CMD write whose word the engine has taken (10_state.md R24, R33). -/
theorem State.unlatch_issue {s : State} (h : s.pending = none) (c : Word) :
    (s.issue c).unlatch = { s with cmd := c, done := false, errcode := .noError } := by
  rw [State.unlatch, State.issue, h]

/-- A command answers a next state, and writes no more than the error, RESULT, HDR and BUF (30_encoding.md R88). -/
theorem exec_next (i : Instr) (s : State) :
    ∃ u, exec i s = .next u ∧
      u = { s with errcode := u.errcode, errinfo := u.errinfo, result := u.result, hdr := u.hdr, buf := u.buf } := by
  rcases exec_answers i s with ⟨u, hu, hc⟩ | ⟨e, w, hu, -⟩
  · exact ⟨u, hu, hc.frame.trans (by rw [hc.errcode, hc.errinfo])⟩
  · exact ⟨_, hu, rfl⟩

/-- Settles O14: the CMD write, the reads in flight, the engine's step on what the write left, and the last read. -/
theorem pollSeesTheCompletedCommand : Obligations.PollSeesTheCompletedCommand := by
  intro s i k rest hidle hin
  obtain ⟨u, hu, hframe⟩ := exec_next i { s with cmd := encode i, done := false, errcode := .noError }
  have hpend : u.pending = none := by rw [hframe]; exact hidle
  have hcmd : u.cmd = encode i := by rw [hframe]
  have hissue : step s = .next ((s.issue (encode i)).withEnv (poll k ++ rest) (some .written)) :=
    step_regWrite (r := .cmd) hin hidle rfl
  obtain ⟨r, hreads⟩ := run_statusReads k 2 (s := (s.issue (encode i)).withEnv (poll k ++ rest) (some .written))
    (List.append_assoc (List.replicate k (rd32 .status)) [.engine, rd32 .status] rest)
  have hunlatch := exec_withEnv hu (.engine :: rd32 .status :: rest) r
  rw [← State.unlatch_issue hidle] at hunlatch
  have hengine := step_of_encode_pending (s := (s.issue (encode i)).withEnv (.engine :: rd32 .status :: rest) r)
    rfl rfl hunlatch
  have hlast := step_regRead (s := (u.withEnv (rd32 .status :: rest) r).complete) (r := .status) rfl (.inr rfl)
  refine ⟨u.complete.withEnv rest (some (.data u.complete.status)), u, ?_, hu, rfl, hpend, rfl, hcmd, rfl, rfl, rfl,
    rfl, rfl, ?_⟩
  · calc Host.Core.run core (k + 3) s
      _ = Host.Core.run core (k + 2) _ := run_succ hissue _
      _ = Host.Core.run core 2 _ := hreads
      _ = Host.Core.run core 1 _ := run_succ hengine 1
      _ = Host.Core.run core 0 _ := run_succ hlast 0
  · rw [← State.toNat_status, BitVec.ofNat_toNat, BitVec.setWidth_eq]
    rfl

end Sys2Proof.Machine

/-! # Proofs for 30_encoding.md: the decoder and the encoder agree, the legal words, and what a command writes -/

/-! ## A word that decodes to a command is that command's word -/

namespace Sys2Proof

/-- A byte that names an opcode is the opcode byte of the opcode's command (R84). -/
theorem Op.byte_of_ofByte {b : Byte} {op : Op} (h : Op.ofByte b = some op) :
    (op.instr 0 0).map (·.code.1) = some b := by
  revert b op; decide

/-- The two commands of a header field keep the SEL value that chose the field (R85). -/
theorem Instr.code_of_ofSel {sel : BitVec 4} {f : HdrField} (h : HdrField.ofSel sel = some f) :
    (Instr.fldGet f).code = (0x14, sel, false) ∧ (Instr.fldSet f).code = (0x15, sel, false) := by
  revert sel f; decide

/-- A command keeps the opcode byte, the SEL value and the V bit that it was chosen by, where the operand outside the
opcode's format is 0 (R82, R84, R85). -/
theorem Instr.code_of_instr {b : Byte} {op : Op} {sel : BitVec 4} {v : BitVec 1} {i : Instr}
    (hb : Op.ofByte b = some op) (hi : op.instr sel v = some i) (hsel : op.format ≠ .s → sel = 0)
    (hv : op.format ≠ .b → v = 0) : i.code = (b, sel, v == 1) := by
  have hbyte := Op.byte_of_ofByte hb
  cases op with
  | fldGet =>
    obtain ⟨f, hf, rfl⟩ := Option.map_eq_some_iff.1 hi
    obtain rfl := hv (by decide)
    rw [(Instr.code_of_ofSel hf).1]
    exact congrArg (·, sel, false) (Option.some.inj hbyte)
  | fldSet =>
    obtain ⟨f, hf, rfl⟩ := Option.map_eq_some_iff.1 hi
    obtain rfl := hv (by decide)
    rw [(Instr.code_of_ofSel hf).2]
    exact congrArg (·, sel, false) (Option.some.inj hbyte)
  | setDirty | setPinned =>
    cases hi
    obtain rfl := hsel (by decide)
    exact congrArg (·, 0, v == 1) (Option.some.inj hbyte)
  | _ =>
    cases hi
    obtain rfl := hsel (by decide)
    obtain rfl := hv (by decide)
    exact congrArg (·, 0, false) (Option.some.inj hbyte)

/-- The decoder drops no bit: the fields it accepts are those of the command it answers (R86). -/
theorem fields_of_decodeFields {f : CmdFields} {i : Instr} (h : decodeFields f = .ok i) : i.fields = f := by
  obtain ⟨b, sel, z1, v, z2⟩ := f
  rw [decodeFields] at h
  cases hop : Op.ofByte b with
  | none => simp [hop] at h
  | some op =>
    simp only [hop] at h
    split_ifs at h with hz1 hz2 hsel hv
    cases hi : op.instr sel v with
    | none => simp [hi] at h
    | some j =>
      obtain rfl : j = i := by simpa [hi] using h
      have hcode := Instr.code_of_instr hop hi (by simpa using hsel) (by simpa using hv)
      have hbit : ∀ v : BitVec 1, BitVec.ofBool (v == 1) = v := by decide
      rw [Instr.fields, hcode, hbit, not_not.1 hz1, not_not.1 hz2]

/-- A word that decodes to a command is that command's word (R84 to R86). -/
theorem eq_encode_of_decode {c : Word} {i : Instr} (h : decode c = .ok i) : c = encode i := by
  rw [encode, fields_of_decodeFields h, CmdFields.toWord_ofWord]

/-- Settles O1: the decoder drops no bit of a word it accepts, and takes every command's word back to the command. -/
theorem decodeEncodeAgree : Obligations.DecodeEncodeAgree := fun _ i =>
  ⟨eq_encode_of_decode, fun h => h ▸ decode_encode i⟩

/-- Settles O3: the legal words are the encodings of their commands; each illegal one fails one check of R86. -/
theorem tabledWordsDecode : Obligations.TabledWordsDecode :=
  ⟨decode_encode .calcChecksum, decode_encode .pageNew, decode_encode .hdrUnpack, decode_encode .fldGetFreeSpace,
    decode_encode .fldGetLsn, decode_encode .fldSetChecksum, decode_encode (.setDirty true),
    decode_encode (.setPinned false), decode_encode .isMeta, rfl, rfl, rfl, rfl, rfl, rfl⟩

/-! ## The legal words, by their bits -/

/-- The numbers that the fields of a word hold (R81). -/
theorem toNat_ofWord (c : Word) :
    (CmdFields.ofWord c).op.toNat = c.toNat % 256 ∧ (CmdFields.ofWord c).sel.toNat = c.toNat / 2 ^ 8 % 16 ∧
    (CmdFields.ofWord c).z1.toNat = c.toNat / 2 ^ 12 % 16 ∧ (CmdFields.ofWord c).v.toNat = c.toNat / 2 ^ 16 % 2 ∧
    (CmdFields.ofWord c).z2.toNat = c.toNat / 2 ^ 17 := by
  have hlt : c.toNat < 2 ^ 32 := c.isLt
  simp only [CmdFields.ofWord, BitVec.extractLsb'_toNat, Nat.shiftRight_eq_div_pow, true_and]
  omega

/-- Settles O2: the decoder accepts the legal words, each of whose checks speaks of the numbers in a word's fields. -/
theorem decodeAcceptsExactlyTheLegalWords : Obligations.DecodeAcceptsExactlyTheLegalWords := by
  intro c
  obtain ⟨hop, hsel, hz1, hv, hz2⟩ := toNat_ofWord c
  have hop' (b : Byte) : (CmdFields.ofWord c).op = b ↔ c.toNat % 256 = b.toNat := by rw [← BitVec.toNat_inj, hop]
  refine (decodeFields_ok_iff _).trans ?_
  simp only [CmdFields.wellFormed, Bool.and_eq_true, and_assoc]
  refine and_congr ?_ (and_congr ?_ (and_congr ?_ (and_congr ?_ ?_)))
  · simp [CmdFields.opLegal, CmdFields.legalOps, hop']
  · simp [CmdFields.z1Zero, ← BitVec.toNat_inj, hz1]
  · simp [CmdFields.z2Zero, ← BitVec.toNat_inj, hz2]
  · simp [CmdFields.selLegal, hop', ← BitVec.toNat_inj, hsel]
  · simp [CmdFields.vLegal, hop', ← BitVec.toNat_inj, hv, or_assoc]

end Sys2Proof

/-! ## What a command writes -/

namespace Sys2Proof.Machine

/-- A command that chooses between two answers leaves a field at what both of them leave it at. -/
theorem field_of_ite_next {α : Type} (f : State → α) {a : α} {p : Prop} [Decidable p] {t e u : State}
    (h : (if p then (.next t : Host.Outcome State Fault Refusal) else .next e) = .next u) (ht : f t = a)
    (he : f e = a) : f u = a := by
  split_ifs at h <;> cases h
  · exact ht
  · exact he

@[simp] theorem State.packHeader_result (s : State) (h : Header) : (s.packHeader h).result = s.result := by
  rw [State.packHeader_frame]

@[simp] theorem State.packHeader_hdr (s : State) (h : Header) : (s.packHeader h).hdr = s.hdr := by
  rw [State.packHeader_frame]

/-- RESULT changes only by the commands that produce a value (30_encoding.md R88). -/
theorem exec_result {i : Instr} {s t : State} (h : exec i s = .next t) (hi : i ∉ resultCommands) :
    t.result = s.result := by
  cases i with
  | hdrNew => exact field_of_ite_next State.result (p := validTag s.tagArg = true) h rfl rfl
  | pageNew | hdrDefault | hdrPack | hdrUnpack => cases h; simp
  | fldSetPageId | fldSetPageType | fldSetFlags | fldSetFreeSpace | fldSetChecksum | fldSetLsn => cases h; simp
  | setDirty v | setPinned v => cases h; simp
  | _ => exact absurd (by decide) hi

/-- The HDR registers change only by HDR_DEFAULT, HDR_NEW and HDR_UNPACK (30_encoding.md R88). -/
theorem exec_hdr {i : Instr} {s t : State} (h : exec i s = .next t) (hi : i ∉ headerCommands) : t.hdr = s.hdr := by
  cases i with
  | hdrDefault | hdrNew | hdrUnpack => exact absurd (by decide) hi
  | crc32 => exact field_of_ite_next State.hdr (p := s.length > Config.bufCap) h rfl rfl
  | pcsum | calcChecksum => exact field_of_ite_next State.hdr (p := s.wholePage = true) h rfl rfl
  | typeDecode | isBtree | isFreelist | isOverflow | isData | isMeta =>
    exact field_of_ite_next State.hdr (p := validTag s.tagArg = true) h rfl rfl
  | _ => cases h; simp

/-- A command that raises an error is one of those that 60_exceptions.md R200 lists. -/
theorem RaisesWith.mem_raisingCommands {i : Instr} {e : ErrCode} {w : Word} (h : RaisesWith i e w) :
    i ∈ raisingCommands := by
  have htag : tagCommands ⊆ raisingCommands := by decide
  cases e with
  | noError | illegalCommand => exact h.elim
  | invalidInput => obtain ⟨rfl | rfl, -⟩ := h <;> decide
  | invalidPageType => exact htag h.1
  | lengthRange => obtain ⟨rfl, -⟩ := h; decide

/-- ERRCODE and ERRINFO change only by the commands that can raise an error (60_exceptions.md R200). -/
theorem exec_error {i : Instr} {s t : State} (h : exec i s = .next t) (hi : i ∉ raisingCommands) :
    t.errcode = s.errcode ∧ t.errinfo = s.errinfo := by
  rcases exec_cases h with hc | ⟨e, w, -, hr⟩
  · exact ⟨hc.errcode, hc.errinfo⟩
  · exact absurd hr.mem_raisingCommands hi

/-- A command stores inside its store range alone (30_encoding.md R88). -/
theorem exec_bufByte {i : Instr} {s t : State} (h : exec i s = .next t) {k : Nat} (hk : k < Config.bufCap)
    (hr : ¬((storeRange i).1 ≤ k ∧ k < (storeRange i).1 + (storeRange i).2)) : t.bufByte k = s.bufByte k := by
  rcases exec_cases h with hc | ⟨e, w, rfl, -⟩
  · exact hc.bytes k hk hr
  · rfl

/-- Settles O8: the frame of all commands, and for each part of it which commands write it. -/
theorem commandsWriteOnlyTheirState : Obligations.CommandsWriteOnlyTheirState := by
  intro i s
  obtain ⟨t, ht, hframe⟩ := exec_next i s
  exact ⟨t, ht, hframe, exec_result ht, exec_hdr ht, exec_error ht, fun _ hk => exec_bufByte ht hk⟩

end Sys2Proof.Machine

/-! # Proofs for 40_pagetype.md: the tag of ARG0, TYPE_DECODE and the predicates -/

namespace Sys2Proof.Machine

/-! ## The tag byte -/

/-- The valid tags are the nine values of 40_pagetype.md R101. -/
theorem validTag_iff (b : Byte) : validTag b = true ↔ 1 ≤ b.toNat ∧ b.toNat ≤ 9 := by
  rw [validTag, Bool.and_eq_true, decide_eq_true_iff, decide_eq_true_iff]

@[simp] theorem State.toNat_tagArg (s : State) : s.tagArg.toNat = s.arg0.toNat % 256 :=
  BitVec.toNat_setWidth 8 s.arg0

/-- The tag byte as a RESULT or ERRINFO word: `zext_32` of it (40_pagetype.md R102). -/
theorem State.setWidth_tagArg (s : State) : s.tagArg.setWidth 32 = BitVec.ofNat 32 (s.arg0.toNat % 256) := by
  rw [← BitVec.ofNat_toNat, s.toNat_tagArg]

/-- A class test of the model answers 1 or 0 by the tag's number (40_pagetype.md R103). -/
theorem boolWord_contains (cls : List Byte) (b : Byte) :
    boolWord (cls.contains b) = if b.toNat ∈ cls.map BitVec.toNat then 1 else 0 := by
  have hmem : b.toNat ∈ cls.map BitVec.toNat ↔ b ∈ cls := List.mem_map_of_injective fun _ _ => BitVec.eq_of_toNat_eq
  simp only [boolWord, List.contains_iff_mem, hmem]

/-! ## The commands that test the tag -/

/-- A command that tests the tag answers its value for a tag 1 to 9 (40_pagetype.md R102, R103). -/
theorem onValidTag_of_valid (v : Byte → Word) {s : State} (h : 1 ≤ s.arg0.toNat % 256 ∧ s.arg0.toNat % 256 ≤ 9) :
    onValidTag v s = .next (s.setResult (v s.tagArg)) :=
  if_pos ((validTag_iff _).2 (s.toNat_tagArg ▸ h))

/-- A command that tests the tag raises INVALID_PAGE_TYPE with any other byte (40_pagetype.md R102, R103). -/
theorem onValidTag_of_invalid (v : Byte → Word) {s : State}
    (h : ¬(1 ≤ s.arg0.toNat % 256 ∧ s.arg0.toNat % 256 ≤ 9)) :
    onValidTag v s = .next (s.raise .invalidPageType (BitVec.ofNat 32 (s.arg0.toNat % 256))) := by
  rw [onValidTag, if_neg (mt (validTag_iff _).1 (s.toNat_tagArg ▸ h)), s.setWidth_tagArg]

/-- Settles O54: a valid tag answers its zero-extension, any other byte is the error. -/
theorem typeDecodeAcceptsTheNineTags : Obligations.TypeDecodeAcceptsTheNineTags := by
  refine ⟨decode_encode .typeDecode, fun s => ⟨fun h => ?_, onValidTag_of_invalid _⟩⟩
  calc exec .typeDecode s
      _ = .next (s.setResult (s.tagArg.setWidth 32)) := onValidTag_of_valid _ h
      _ = .next (s.setResult (BitVec.ofNat 32 (s.arg0.toNat % 256))) := by rw [s.setWidth_tagArg]

/-- Each row of the predicates' table is a command that tests the row's class, and its word (40_pagetype.md R104 to
R108). -/
theorem exec_of_mem_predicateTable {i : Instr} {w : Word} {cls : List Nat} (h : (i, w, cls) ∈ predicateTable) :
    w = encode i ∧ ∃ tags : List Byte, cls = tags.map BitVec.toNat ∧ exec i = predicateOp tags := by
  simp only [predicateTable, List.mem_cons, Prod.mk.injEq, List.not_mem_nil, or_false] at h
  rcases h with ⟨rfl, rfl, rfl⟩ | ⟨rfl, rfl, rfl⟩ | ⟨rfl, rfl, rfl⟩ | ⟨rfl, rfl, rfl⟩ | ⟨rfl, rfl, rfl⟩
  · exact ⟨by decide, [0x04, 0x05], rfl, rfl⟩
  · exact ⟨by decide, [0x08], rfl, rfl⟩
  · exact ⟨by decide, [0x07], rfl, rfl⟩
  · exact ⟨by decide, [0x03], rfl, rfl⟩
  · exact ⟨by decide, [0x01, 0x02], rfl, rfl⟩

/-- Settles O55: each row is a tag test whose value is membership in the row's class. -/
theorem predicatesClassifyTheTag : Obligations.PredicatesClassifyTheTag := by
  intro i w cls hrow
  obtain ⟨rfl, tags, rfl, hexec⟩ := exec_of_mem_predicateTable hrow
  refine ⟨decode_encode i, fun s => ⟨fun h => ?_, fun h => ?_⟩⟩
  · calc exec i s
        _ = .next (s.setResult (boolWord (tags.contains s.tagArg))) := hexec ▸ onValidTag_of_valid _ h
        _ = .next (s.setResult (if s.arg0.toNat % 256 ∈ tags.map BitVec.toNat then 1 else 0)) := by
          rw [boolWord_contains, s.toNat_tagArg]
  · exact hexec ▸ onValidTag_of_invalid _ h

end Sys2Proof.Machine

/-! # Proofs for 41_header.md: the header fields in BUF, the whole-header, the field and the flag commands -/

namespace Sys2Proof.Machine

/-! ## What BUF reads after a write -/

/-- The bytes of a word are the digits of its low part (20_memory.md R53). -/
theorem ofDigits_leBytes (n : Nat) (v : Word) :
    Nat.ofDigits 256 ((leBytes n v).map BitVec.toNat) = v.toNat % 256 ^ n := by
  induction n generalizing v with
  | zero => rw [pow_zero, Nat.mod_one]; rfl
  | succ n ih =>
    rw [leBytes, List.map_cons, Nat.ofDigits_cons, ih, BitVec.toNat_setWidth, BitVec.toNat_ushiftRight,
      Nat.shiftRight_eq_div_pow, Nat.pow_succ' (m := 256), Nat.mod_mul]

/-- The bytes that `BufWrite` stored are those of the word. -/
theorem State.bytes_bufWrite (s : State) (off n : Nat) (v : Word) :
    (s.bufWrite off n v).bytes off n = leBytes n v := by
  refine List.ext_getElem? fun i => ?_
  by_cases hi : i < n
  · rw [leBytes_getElem? n v i hi, State.bytes_eq, List.getElem?_map, List.getElem?_range hi, Option.map_some,
      State.bufByte_bufWrite, if_pos (by omega), Nat.add_sub_cancel_left]
  · rw [List.getElem?_eq_none (by simpa using hi), List.getElem?_eq_none (by simpa using hi)]

/-- The number that `BufWrite` stored is the value cut to the width written (20_memory.md R55). -/
theorem State.bufNat_bufWrite (s : State) (off n : Nat) (v : Word) :
    (s.bufWrite off n v).bufNat off n = v.toNat % 256 ^ n := by
  rw [State.bufNat_eq_ofDigits, State.bytes_bufWrite, ofDigits_leBytes]

/-- A one-byte `BufWrite` of a byte. -/
theorem State.bufByte_bufWrite_byte (s : State) (off : Nat) (b : Byte) (k : Nat) :
    (s.bufWrite off 1 (b.setWidth 32)).bufByte k = if k = off then b else s.bufByte k := by
  rw [State.bufByte_bufWrite]
  by_cases hk : k = off
  · rw [if_pos (by omega), if_pos hk, hk, Nat.sub_self, Nat.mul_zero, BitVec.ushiftRight_zero,
      BitVec.setWidth_setWidth_of_le _ (by decide), BitVec.setWidth_eq]
  · rw [if_neg (by omega), if_neg hk]

/-- The bytes of BUF are digits to the base 256. -/
theorem State.lt_of_mem_bytes {s : State} {off n : Nat} : ∀ d ∈ (s.bytes off n).map BitVec.toNat, d < 256 :=
  List.forall_mem_map.2 fun b _ => b.isLt

theorem State.bufNat_lt (s : State) (off n : Nat) : s.bufNat off n < 256 ^ n := by
  have hlt := Nat.ofDigits_lt_base_pow_length (by decide) (State.lt_of_mem_bytes (s := s) (off := off) (n := n))
  rwa [List.length_map, State.bytes_length, ← State.bufNat_eq_ofDigits] at hlt

/-- Buffers that hold the same number in a range hold the same bytes there. -/
theorem State.bytes_eq_of_bufNat_eq {s t : State} {off n : Nat} (h : s.bufNat off n = t.bufNat off n) :
    s.bytes off n = t.bytes off n := by
  rw [State.bufNat_eq_ofDigits, State.bufNat_eq_ofDigits] at h
  exact List.map_injective_iff.2 (fun _ _ => BitVec.eq_of_toNat_eq)
    (Nat.ofDigits_inj_of_len_eq (by decide) (by simp) State.lt_of_mem_bytes State.lt_of_mem_bytes h)

/-- Buffers whose bytes from an offset on are the same list hold the same byte at each place of it. -/
theorem State.bufByte_eq_of_bytes_eq {s t : State} {off n k : Nat} (h : s.bytes off n = t.bytes off n)
    (hlo : off ≤ k) (hhi : k < off + n) : s.bufByte k = t.bufByte k := by
  rw [State.bytes_eq, State.bytes_eq, List.map_inj_left] at h
  simpa [Nat.add_sub_cancel' hlo] using h (k - off) (List.mem_range.2 (by omega))

/-! ## The six header fields -/

/-- The header fields in the order of SEL (30_encoding.md R85). -/
def headerFields : List HdrField := [.pageId, .pageType, .flags, .freeSpace, .checksum, .lsn]

theorem mem_headerFields (f : HdrField) : f ∈ headerFields := by cases f <;> decide

theorem fieldWidth_le (f : HdrField) : fieldWidth f ≤ 4 := by cases f <;> decide

/-- The fields lie in the sixteen header bytes (41_header.md R120). -/
theorem fieldEnd_le (f : HdrField) : fieldOffset f + fieldWidth f ≤ 16 := by cases f <;> decide

/-- No two fields share a byte (41_header.md R120). -/
theorem fields_disjoint {f g : HdrField} (h : f ≠ g) :
    fieldOffset f + fieldWidth f ≤ fieldOffset g ∨ fieldOffset g + fieldWidth g ≤ fieldOffset f :=
  (by decide : ∀ f ∈ headerFields, ∀ g ∈ headerFields, f ≠ g →
    fieldOffset f + fieldWidth f ≤ fieldOffset g ∨ fieldOffset g + fieldWidth g ≤ fieldOffset f)
    f (mem_headerFields f) g (mem_headerFields g) h

/-- Each of the sixteen header bytes belongs to a field (41_header.md R120). -/
theorem exists_field_of_lt {k : Nat} (h : k < 16) : ∃ f, fieldOffset f ≤ k ∧ k < fieldOffset f + fieldWidth f := by
  have hcover : ∀ k < 16, ∃ f ∈ headerFields, fieldOffset f ≤ k ∧ k < fieldOffset f + fieldWidth f := by decide
  obtain ⟨f, -, hf⟩ := hcover k h
  exact ⟨f, hf⟩

/-! ## What a field reads after a write -/

namespace State

/-- A field as the number its bytes hold. -/
theorem toNat_field (s : State) (f : HdrField) : (s.field f).toNat = s.bufNat (fieldOffset f) (fieldWidth f) :=
  s.toNat_bufRead _ (fieldWidth_le f)

/-- A field read after it was written is the value cut to its width. -/
theorem toNat_field_setField (s : State) (f : HdrField) (v : Word) :
    ((s.setField f v).field f).toNat = v.toNat % 256 ^ fieldWidth f := by
  rw [toNat_field, setField, bufNat_bufWrite]

/-- A write of a field leaves every other field. -/
theorem field_setField_of_ne {f g : HdrField} (h : f ≠ g) (s : State) (v : Word) :
    (s.setField f v).field g = s.field g :=
  bufRead_congr fun k hlo hhi => by
    have hdisj := fields_disjoint h
    rw [bufByte_setField, if_neg (by omega)]

/-- A write of a field leaves every byte after the header. -/
theorem bufByte_setField_of_le {k : Nat} (hk : 16 ≤ k) (s : State) (f : HdrField) (v : Word) :
    (s.setField f v).bufByte k = s.bufByte k := by
  have hend := fieldEnd_le f
  rw [bufByte_setField, if_neg (by omega)]

/-- A field's number fits its width. -/
theorem toNat_field_lt (s : State) (f : HdrField) : (s.field f).toNat < 256 ^ fieldWidth f := by
  rw [toNat_field]
  exact s.bufNat_lt _ _

end State

/-! ## The header in unpacked form -/

/-- What a header holds in each field, as a number. -/
def Header.num (h : Header) : HdrField → Nat
  | .pageId => h.pageId.toNat
  | .pageType => h.pageType.toNat
  | .flags => h.flags.toNat
  | .freeSpace => h.freeSpace.toNat
  | .checksum => h.checksum.toNat
  | .lsn => h.lsn.toNat

/-- A header's fields fit their widths in BUF (41_header.md R120). -/
theorem Header.num_lt (h : Header) (f : HdrField) : h.num f < 256 ^ fieldWidth f := by
  cases f with
  | pageId => exact h.pageId.isLt
  | pageType => exact h.pageType.isLt
  | flags => exact h.flags.isLt
  | freeSpace => exact h.freeSpace.isLt
  | checksum => exact h.checksum.isLt
  | lsn => exact h.lsn.isLt

/-- A header is the numbers in its fields. -/
theorem Header.eq_of_num_eq {a b : Header} (h : ∀ f, a.num f = b.num f) : a = b := by
  rw [Header.mk.injEq]
  exact ⟨BitVec.eq_of_toNat_eq (h .pageId), BitVec.eq_of_toNat_eq (h .pageType), BitVec.eq_of_toNat_eq (h .flags),
    BitVec.eq_of_toNat_eq (h .freeSpace), BitVec.eq_of_toNat_eq (h .checksum), BitVec.eq_of_toNat_eq (h .lsn)⟩

/-- HDR_PACK is one field write after the other, each of the header's number there (41_header.md R126). -/
theorem State.packHeader_eq_foldl (s : State) (h : Header) :
    s.packHeader h = headerFields.foldl (fun t f => t.setField f (BitVec.ofNat 32 (h.num f))) s := by
  simp [packHeader, headerFields, Header.num]

/-- A field read after HDR_PACK is the header's number: no write of another field touches it. -/
theorem State.toNat_field_packHeader (s : State) (h : Header) (f : HdrField) :
    ((s.packHeader h).field f).toNat = h.num f := by
  have hword : ∀ f, (BitVec.ofNat 32 (h.num f)).toNat = h.num f := fun f =>
    Nat.mod_eq_of_lt ((h.num_lt f).trans_le (Nat.pow_le_pow_right (by decide) (fieldWidth_le f)))
  rw [packHeader_eq_foldl]
  cases f <;>
    simp only [headerFields, List.foldl_cons, List.foldl_nil, ne_eq, reduceCtorEq, not_false_eq_true,
      field_setField_of_ne, toNat_field_setField, hword, Nat.mod_eq_of_lt (h.num_lt _)]

/-- HDR_UNPACK reads into each field of the header the number that BUF holds there (41_header.md R127). -/
theorem State.num_unpackHeader (s : State) (f : HdrField) : s.unpackHeader.num f = (s.field f).toNat := by
  have low {f : HdrField} {n : Nat} (hn : 256 ^ fieldWidth f = 2 ^ n) :
      ((s.field f).setWidth n).toNat = (s.field f).toNat := by
    rw [BitVec.toNat_setWidth, ← hn, Nat.mod_eq_of_lt (s.toNat_field_lt f)]
  cases f with
  | pageId | checksum | lsn => rfl
  | pageType | flags | freeSpace => exact low rfl

/-- HDR_PACK leaves every byte after the header. -/
theorem State.bufByte_packHeader_of_le {k : Nat} (hk : 16 ≤ k) (s : State) (h : Header) :
    (s.packHeader h).bufByte k = s.bufByte k := by
  simp only [packHeader, bufByte_setField_of_le hk]

/-- After HDR_PACK the bytes of each field are the header's number, little-endian (41_header.md R126). -/
theorem State.bufNat_packHeader (s : State) (h : Header) (f : HdrField) :
    (s.packHeader h).bufNat (fieldOffset f) (fieldWidth f) = h.num f := by
  rw [← toNat_field, toNat_field_packHeader]

/-- Unpacking what was packed gives the header back (41_header.md R123). -/
theorem State.unpackHeader_packHeader (s : State) (h : Header) : (s.packHeader h).unpackHeader = h :=
  Header.eq_of_num_eq fun f => by rw [num_unpackHeader, toNat_field_packHeader]

/-- Packing what was unpacked changes no byte of BUF (41_header.md R123). -/
theorem State.bufByte_packHeader_unpackHeader (s : State) (k : Nat) :
    (s.packHeader s.unpackHeader).bufByte k = s.bufByte k := by
  by_cases hk : k < 16
  · obtain ⟨f, hlo, hhi⟩ := exists_field_of_lt hk
    refine bufByte_eq_of_bytes_eq (bytes_eq_of_bufNat_eq ?_) hlo hhi
    rw [bufNat_packHeader, num_unpackHeader, toNat_field]
  · exact bufByte_packHeader_of_le (Nat.not_lt.1 hk) s _

/-! ## The whole-header commands -/

/-- Settles O43: the default header, field by field. -/
theorem hdrDefaultLoadsTheDefaults : Obligations.HdrDefaultLoadsTheDefaults :=
  ⟨decode_encode .hdrDefault, fun _ => rfl⟩

/-- Settles O44: a valid tag gives the default header with ARG0's tag and ARG1's page id, any other byte the error. -/
theorem hdrNewChecksTheTag : Obligations.HdrNewChecksTheTag := by
  have hiff (s : State) : validTag s.tagArg = true ↔ 1 ≤ s.arg0.toNat % 256 ∧ s.arg0.toNat % 256 ≤ 9 := by
    rw [validTag_iff, s.toNat_tagArg]
  refine ⟨decode_encode .hdrNew, fun s => ⟨fun h => ?_, fun h => ?_⟩⟩
  · rw [← s.toNat_tagArg, BitVec.ofNat_toNat, BitVec.setWidth_eq]
    exact if_pos ((hiff s).2 h)
  · rw [← s.setWidth_tagArg]
    exact if_neg (mt (hiff s).1 h)

/-- Settles O45: the six writes of HDR_PACK, field by field, and the bytes after the header. -/
theorem hdrPackWritesTheHeaderBytes : Obligations.HdrPackWritesTheHeaderBytes := by
  refine ⟨decode_encode .hdrPack, fun s => ⟨_, rfl, s.packHeader_frame s.hdr, ?_⟩⟩
  have hfield := s.bufNat_packHeader s.hdr
  exact ⟨hfield .pageId, hfield .pageType, hfield .flags, hfield .freeSpace, hfield .checksum, hfield .lsn,
    fun k hk => State.bufByte_packHeader_of_le hk s s.hdr⟩

/-- Settles O46: the six reads of HDR_UNPACK, field by field. -/
theorem hdrUnpackReadsTheHeaderBytes : Obligations.HdrUnpackReadsTheHeaderBytes := by
  refine ⟨decode_encode .hdrUnpack, fun s => ⟨s.unpackHeader, rfl, ?_⟩⟩
  have hfield (f : HdrField) : s.unpackHeader.num f = s.bufNat (fieldOffset f) (fieldWidth f) :=
    (s.num_unpackHeader f).trans (s.toNat_field f)
  exact ⟨hfield .pageId, hfield .pageType, hfield .flags, hfield .freeSpace, hfield .checksum, hfield .lsn⟩

/-- Settles O47: the number of each field goes from the header to BUF and back. -/
theorem packAndUnpackAreInverse : Obligations.PackAndUnpackAreInverse := by
  refine fun s t u => ⟨fun hpack hunpack => ?_, fun hunpack hpack => ?_⟩ <;> cases hpack <;> cases hunpack
  · exact s.unpackHeader_packHeader s.hdr
  · exact s.bufByte_packHeader_unpackHeader

/-! ## The field commands -/

theorem exec_fldGet (f : HdrField) (s : State) : exec (Instr.fldGet f) s = .next (s.setResult (s.field f)) := by
  cases f <;> rfl

theorem exec_fldSet (f : HdrField) (s : State) : exec (Instr.fldSet f) s = .next (s.setField f s.arg0) := by
  cases f <;> rfl

theorem fldGet_injective {f g : HdrField} (h : Instr.fldGet f = Instr.fldGet g) : f = g :=
  (by decide : ∀ f ∈ headerFields, ∀ g ∈ headerFields, Instr.fldGet f = Instr.fldGet g → f = g)
    f (mem_headerFields f) g (mem_headerFields g) h

/-- Each row of the fields' table is the two commands of a field, their words and the field's place (30_encoding.md
R85). -/
theorem field_of_mem_fieldTable {g p : Instr} {wg wp : Word} {off n : Nat} (h : (g, wg, p, wp, off, n) ∈ fieldTable) :
    ∃ f, g = Instr.fldGet f ∧ wg = encode g ∧ p = Instr.fldSet f ∧ wp = encode p ∧ off = fieldOffset f ∧
      n = fieldWidth f := by
  have hrows : fieldTable = headerFields.map fun f => (Instr.fldGet f, encode (Instr.fldGet f), Instr.fldSet f,
      encode (Instr.fldSet f), fieldOffset f, fieldWidth f) := by decide
  rw [hrows, List.mem_map] at h
  obtain ⟨f, -, hf⟩ := h
  cases hf
  exact ⟨f, rfl, rfl, rfl, rfl, rfl, rfl⟩

/-- Settles O48: FLD_GET of a field is the field's number. -/
theorem fldGetReadsItsField : Obligations.FldGetReadsItsField := by
  intro g wg p wp off n hrow
  obtain ⟨f, rfl, rfl, -, -, rfl, rfl⟩ := field_of_mem_fieldTable hrow
  exact ⟨decode_encode _, fun s => ⟨s.field f, s.toNat_field f, exec_fldGet f s⟩⟩

/-- Settles O49: FLD_SET of a field is `BufWrite` at the field's place. -/
theorem fldSetWritesItsField : Obligations.FldSetWritesItsField := by
  intro g wg p wp off n hrow
  obtain ⟨f, -, -, rfl, rfl, rfl, rfl⟩ := field_of_mem_fieldTable hrow
  exact ⟨decode_encode _, fun s => ⟨_, exec_fldSet f s, storesOnly_bufWrite s _ _ s.arg0⟩⟩

/-- Settles O50: a field reads what was written to it, and no field shares a byte with another. -/
theorem fieldsAreIndependent : Obligations.FieldsAreIndependent := by
  intro g wg p wp off n g' wg' p' wp' off' n' hrow hrow' s t hset
  obtain ⟨f, rfl, -, rfl, -, -, rfl⟩ := field_of_mem_fieldTable hrow
  obtain ⟨f', rfl, -⟩ := field_of_mem_fieldTable hrow'
  rw [exec_fldSet] at hset
  cases hset
  refine ⟨_, exec_fldGet f' _, fun heq => ?_, fun hne => ?_⟩
  · obtain rfl := fldGet_injective heq
    rw [State.toNat_field_setField, Nat.pow_mul]
  · rw [State.field_setField_of_ne (fun hf => hne (congrArg _ hf.symm)), exec_fldGet]
    rfl

/-! ## The flag commands -/

/-- A flag as a RESULT word is the bit's number (41_header.md R132, R134). -/
theorem boolWord_getLsbD (b : Byte) (j : Nat) : boolWord (b.getLsbD j) = BitVec.ofNat 32 (b.toNat / 2 ^ j % 2) := by
  have hbool : ∀ v : Bool, boolWord v = BitVec.ofNat 32 v.toNat := by decide
  rw [hbool, BitVec.getLsbD, Nat.toNat_testBit]

theorem exec_getDirty (s : State) :
    exec .getDirty s = .next (s.setResult (boolWord ((s.bufByte 5).getLsbD 0))) := rfl

theorem exec_getPinned (s : State) :
    exec .getPinned s = .next (s.setResult (boolWord ((s.bufByte 5).getLsbD 1))) := rfl

/-- A byte with the bit of a mask cleared and a value put there: that bit is the value, the others are the byte's. -/
theorem getLsbD_and_or {b mask put : Byte} {bit : Nat} {v : Bool}
    (hmask : ∀ j < 8, mask.getLsbD j = decide (j ≠ bit)) (hput : ∀ j < 8, put.getLsbD j = (decide (j = bit) && v))
    {j : Nat} (hj : j < 8) : ((b &&& mask) ||| put).getLsbD j = if j = bit then v else b.getLsbD j := by
  rw [BitVec.getLsbD_or, BitVec.getLsbD_and, hmask j hj, hput j hj]
  by_cases h : j = bit <;> simp [h]

theorem getLsbD_withDirty (b : Byte) (v : Bool) {j : Nat} (hj : j < 8) :
    (withDirty b v).getLsbD j = if j = 0 then v else b.getLsbD j :=
  getLsbD_and_or (by decide) (by cases v <;> decide) hj

theorem getLsbD_withPinned (b : Byte) (v : Bool) {j : Nat} (hj : j < 8) :
    (withPinned b v).getLsbD j = if j = 1 then v else b.getLsbD j :=
  getLsbD_and_or (by decide) (by cases v <;> decide) hj

/-- What a flag command leaves: the flag's bit of the flags byte is `v`, and the rest is as before (41_header.md R133,
R135). -/
def WritesFlag (s t : State) (bit : Nat) (v : Bool) : Prop :=
  t = { s with buf := t.buf } ∧
  (∀ j, j < 8 → (t.bufByte 5).getLsbD j = if j = bit then v else (s.bufByte 5).getLsbD j) ∧
  ∀ k, k ≠ 5 → t.bufByte k = s.bufByte k

theorem writesFlag_bufWrite {s : State} {b : Byte} {bit : Nat} {v : Bool}
    (hb : ∀ j, j < 8 → b.getLsbD j = if j = bit then v else (s.bufByte 5).getLsbD j) :
    WritesFlag s (s.bufWrite 5 1 (b.setWidth 32)) bit v := by
  refine ⟨s.bufWrite_frame 5 1 _, ?_, fun k hk => ?_⟩
  · rwa [State.bufByte_bufWrite_byte, if_pos rfl]
  · rw [State.bufByte_bufWrite_byte, if_neg hk]

theorem exec_setDirty (s : State) (v : Bool) : ∃ t, exec (.setDirty v) s = .next t ∧ WritesFlag s t 0 v :=
  ⟨_, rfl, writesFlag_bufWrite fun _ => getLsbD_withDirty _ v⟩

theorem exec_setPinned (s : State) (v : Bool) : ∃ t, exec (.setPinned v) s = .next t ∧ WritesFlag s t 1 v :=
  ⟨_, rfl, writesFlag_bufWrite fun _ => getLsbD_withPinned _ v⟩

/-- Settles O51: each flag as the number of its bit. -/
theorem getFlagReadsItsBit : Obligations.GetFlagReadsItsBit := by
  refine ⟨decode_encode .getDirty, decode_encode .getPinned, fun s => ⟨?_, ?_⟩⟩
  · rw [exec_getDirty, boolWord_getLsbD, pow_zero, Nat.div_one]
    rfl
  · rw [exec_getPinned, boolWord_getLsbD, pow_one]
    rfl

/-- Settles O52: each flag command replaces its own bit of the flags byte. -/
theorem setFlagWritesItsBit : Obligations.SetFlagWritesItsBit := by
  refine ⟨decode_encode (.setDirty false), decode_encode (.setDirty true), decode_encode (.setPinned false),
    decode_encode (.setPinned true), fun s v i bit hi => ?_⟩
  simp only [List.mem_cons, Prod.mk.injEq, List.not_mem_nil, or_false] at hi
  rcases hi with ⟨rfl, rfl⟩ | ⟨rfl, rfl⟩
  · exact exec_setDirty s v
  · exact exec_setPinned s v

/-- Settles O53: the bit a flag command replaced is its value, the other flag's bit is as before. -/
theorem flagsAreIndependent : Obligations.FlagsAreIndependent := by
  intro s t v
  refine ⟨fun h => ?_, fun h => ?_⟩
  · obtain ⟨u, hu, -, hbits, -⟩ := exec_setDirty s v
    obtain rfl : u = t := by simpa [hu] using h
    refine ⟨?_, _, exec_getPinned s, ?_⟩
    · rw [exec_getDirty, hbits 0 (by decide)]
      rfl
    · rw [exec_getPinned, hbits 1 (by decide)]
      rfl
  · obtain ⟨u, hu, -, hbits, -⟩ := exec_setPinned s v
    obtain rfl : u = t := by simpa [hu] using h
    refine ⟨?_, _, exec_getDirty s, ?_⟩
    · rw [exec_getPinned, hbits 1 (by decide)]
      rfl
    · rw [exec_getDirty, hbits 0 (by decide)]
      rfl

end Sys2Proof.Machine

/-! # Proofs for 42_checksum.md: the bytes CRC32 and PCSUM hash, the check value and the streaming forms -/

namespace Sys2Proof.Machine

/-! ## The hashed bytes -/

/-- `BUF[0..n)`, byte by byte. -/
theorem State.bytes_zero (s : State) (n : Nat) : s.bytes 0 n = (List.range n).map s.bufByte := by
  rw [State.bytes_eq]
  exact List.map_congr_left fun i _ => congrArg s.bufByte (Nat.zero_add i)

/-- The page checksum is the CRC of `BUF[0..8) ++ BUF[12..4096)` (42_checksum.md R155). -/
theorem State.pageChecksum_eq_crc32 (s : State) :
    s.pageChecksum = crc32 ((List.range 8).map s.bufByte ++ (List.range 4084).map fun i => s.bufByte (12 + i)) := by
  rw [← State.bytes_zero, ← State.bytes_eq]
  rfl

/-- Pages that read alike outside the exclusion window have the same page checksum (42_checksum.md R159 law 3). -/
theorem State.pageChecksum_congr {s t : State}
    (h : ∀ k, k < 4096 → ¬(8 ≤ k ∧ k < 12) → s.bufByte k = t.bufByte k) : s.pageChecksum = t.pageChecksum := by
  have hbefore : s.bytes 0 8 = t.bytes 0 8 := State.bytes_congr fun k _ hk => h k (by omega) (by omega)
  have hafter : s.bytes 12 4084 = t.bytes 12 4084 := State.bytes_congr fun k _ hk => h k (by omega) (by omega)
  exact congrArg₂ (fun a b => crc32 (a ++ b)) hbefore hafter

/-! ## The commands -/

/-- CRC32 of at most BUF_CAP bytes (42_checksum.md R153). -/
theorem exec_crc32_of_le {s : State} (h : s.len.toNat ≤ 4096) :
    exec .crc32 s = .next (s.setResult (crc32 ((List.range s.len.toNat).map s.bufByte))) := by
  rw [← State.bytes_zero]
  exact if_neg (Nat.not_lt.2 h)

/-- PCSUM of a whole page (42_checksum.md R156). -/
theorem exec_pcsum_of_wholePage {s : State} (h : s.len.toNat = 4096) :
    exec .pcsum s = .next (s.setResult s.pageChecksum) :=
  if_pos (beq_iff_eq.2 h)

/-- Settles O29: the two outcomes of CRC32, by whether LEN is above the buffer's capacity. -/
theorem crc32HashesThePrefix : Obligations.Crc32HashesThePrefix :=
  ⟨decode_encode .crc32, fun _ => ⟨exec_crc32_of_le, fun h => if_pos h⟩⟩

/-- Settles O30: equal prefixes are equal inputs of the CRC. -/
theorem crc32IgnoresBytesPastLen : Obligations.Crc32IgnoresBytesPastLen := by
  intro s t hlen hcap hbytes
  have hprefix : (List.range s.len.toNat).map s.bufByte = (List.range t.len.toNat).map t.bufByte := by
    rw [← hlen]
    exact List.map_congr_left fun k hk => hbytes k (List.mem_range.1 hk)
  exact ⟨_, exec_crc32_of_le hcap, hprefix ▸ exec_crc32_of_le (hlen ▸ hcap)⟩

/-- Settles O33: the two outcomes of PCSUM, by whether LEN is a whole page. -/
theorem pcsumHashesThePageLessItsWindow : Obligations.PcsumHashesThePageLessItsWindow := by
  refine ⟨decode_encode .pcsum, fun s => ⟨fun h => ?_, fun h => if_neg (mt beq_iff_eq.1 h)⟩⟩
  rw [← s.pageChecksum_eq_crc32]
  exact exec_pcsum_of_wholePage h

/-- Settles O34: the two pages have one page checksum. -/
theorem pageChecksumIgnoresItsWindow : Obligations.PageChecksumIgnoresItsWindow := fun _ _ hs ht hbytes =>
  ⟨_, exec_pcsum_of_wholePage hs, State.pageChecksum_congr hbytes ▸ exec_pcsum_of_wholePage ht⟩

/-! ## The check value -/

/-- The CRC of no byte: the two masks of 42_checksum.md R152 cancel. -/
@[simp] theorem crc32_nil : crc32 [] = 0 := rfl

/-- The CRC of the ASCII digits "123456789" (42_checksum.md R152). -/
theorem crc32_checkInput : crc32 ((List.range 9).map fun k => BitVec.ofNat 8 (0x31 + k)) = 0xCBF43926 := by
  decide

/-- Settles O31: the nine bytes are the check input; no byte is the empty input. -/
theorem crc32GivesTheCheckValue : Obligations.Crc32GivesTheCheckValue := by
  refine fun s => ⟨fun hlen hbytes => ?_, fun hlen => ?_⟩
  · have hinput : (List.range s.len.toNat).map s.bufByte = (List.range 9).map fun k => BitVec.ofNat 8 (0x31 + k) := by
      rw [hlen]
      exact List.map_congr_left fun k hk => hbytes k (List.mem_range.1 hk)
    rw [exec_crc32_of_le (by rw [hlen]; decide), hinput, crc32_checkInput]
    rfl
  · have hinput : (List.range s.len.toNat).map s.bufByte = [] := by rw [hlen]; rfl
    rw [exec_crc32_of_le (by rw [hlen]; decide), hinput, crc32_nil]
    rfl

/-! ## The streaming forms -/

/-- The offsets outside a window of `n` from `a` are those before it and those after it. -/
theorem filter_range_outside (a n m : Nat) :
    (List.range (a + n + m)).filter (fun k => ¬(a ≤ k ∧ k < a + n)) =
      List.range a ++ (List.range m).map fun i => a + n + i := by
  have hbefore : (List.range a).filter (fun k => ¬(a ≤ k ∧ k < a + n)) = List.range a :=
    List.filter_eq_self.2 fun k hk => by
      have hka := List.mem_range.1 hk
      exact decide_eq_true (by omega)
  have hwindow : ((List.range n).map (a + ·)).filter (fun k => ¬(a ≤ k ∧ k < a + n)) = [] := by
    simp [List.filter_eq_nil_iff]
  have hafter : ((List.range m).map (a + n + ·)).filter (fun k => ¬(a ≤ k ∧ k < a + n)) =
      (List.range m).map (a + n + ·) := by
    simp [List.filter_eq_self]
  rw [List.range_add, List.range_add, List.filter_append, List.filter_append, hbefore, hwindow, hafter,
    List.append_nil]

/-- One pass of the CRC that leaves its state alone in a window is the CRC of the bytes outside it (42_checksum.md
R158). -/
theorem foldl_crcByte_outside (byte : Nat → Byte) (a n m : Nat) (c : Word) :
    (List.range (a + n + m)).foldl (fun crc k => if a ≤ k ∧ k < a + n then crc else crcByte crc (byte k)) c =
      crcUpd c ((List.range a).map byte ++ (List.range m).map fun i => byte (a + n + i)) := by
  calc (List.range (a + n + m)).foldl (fun crc k => if a ≤ k ∧ k < a + n then crc else crcByte crc (byte k)) c
      _ = ((List.range (a + n + m)).filter (fun k => ¬(a ≤ k ∧ k < a + n))).foldl
            (fun crc k => crcByte crc (byte k)) c := by
          simp only [List.foldl_filter, decide_eq_true_eq, ite_not]
      _ = crcUpd c ((List.range a ++ (List.range m).map fun i => a + n + i).map byte) := by
          rw [filter_range_outside, crcUpd_eq_foldl, List.foldl_map]
      _ = crcUpd c ((List.range a).map byte ++ (List.range m).map fun i => byte (a + n + i)) := by
          rw [List.map_append, List.map_map]
          rfl

/-- Settles O32: the CRC of the joined ranges, split at the join, and as one pass over the whole page. -/
theorem pageChecksumStreams : Obligations.PageChecksumStreams := by
  refine fun s => ⟨?_, ?_⟩
  · rw [s.pageChecksum_eq_crc32, crc32, crcUpd_append]
    rfl
  · rw [s.pageChecksum_eq_crc32, crc32]
    exact congrArg (· ^^^ crcOnes) (foldl_crcByte_outside s.bufByte 8 4 4084 crcOnes).symm

end Sys2Proof.Machine

/-! # Proofs for 43_page.md: CALC, VERIFY and ISCORR, the changes that VERIFY detects, the new page -/

namespace Sys2Proof.Machine

/-! ## Inputs of the CRC that differ in one byte -/

/-- A round moves the bit it shifts out to the top, which `crcPoly` sets and the shift clears (42_checksum.md R152). -/
theorem getLsbD_crcBit_top (c : Word) : (crcBit c).getLsbD 31 = c.getLsbD 0 := by
  have hshift : (c >>> 1).getLsbD 31 = false := by
    rw [BitVec.getLsbD_ushiftRight, BitVec.getLsbD_of_ge c (1 + 31) (by decide)]
  rw [crcBit]
  split_ifs with h
  · rw [BitVec.getLsbD_xor, hshift, h]
    rfl
  · rw [hshift, Bool.eq_false_of_not_eq_true h]

/-- A round loses no bit: the top bit is the one shifted out, and it says whether `crcPoly` was added to the others. -/
theorem crcBit_injective : Function.Injective crcBit := by
  intro x y h
  have hlow : x.getLsbD 0 = y.getLsbD 0 := by rw [← getLsbD_crcBit_top, h, getLsbD_crcBit_top]
  have hshift : x >>> 1 = y >>> 1 := by
    rw [crcBit, crcBit, hlow] at h
    split_ifs at h
    · exact (BitVec.xor_left_inj _).1 h
    · exact h
  refine BitVec.eq_of_getLsbD_eq fun i _ => ?_
  cases i with
  | zero => exact hlow
  | succ i => simpa [Nat.add_comm] using congrArg (·.getLsbD i) hshift

theorem crcBits_injective (n : Nat) : Function.Injective (crcBits n) := by
  induction n with
  | zero => exact Function.injective_id
  | succ n ih => exact ih.comp crcBit_injective

theorem crcByte_left_injective (b : Byte) : Function.Injective (crcByte · b) := fun _ _ h =>
  (BitVec.xor_left_inj _).1 (crcBits_injective 8 h)

theorem crcByte_right_injective (c : Word) : Function.Injective (crcByte c) := fun a b h => by
  have hwide : a.setWidth 32 = b.setWidth 32 := (BitVec.xor_right_inj _).1 (crcBits_injective 8 h)
  simpa using congrArg (BitVec.setWidth 8) hwide

theorem crcUpd_left_injective (m : List Byte) : Function.Injective (crcUpd · m) := by
  induction m with
  | nil => exact Function.injective_id
  | cons b m ih => simpa only [crcUpd_cons, Function.comp_def] using ih.comp (crcByte_left_injective b)

/-- Inputs that differ in one byte have different CRCs (42_checksum.md R159 law 4): up to that byte the CRC's states are
equal, the byte makes them differ, and no later byte makes them equal again. -/
theorem crc32_ne_of_one_byte (m m' : List Byte) {a b : Byte} (h : a ≠ b) :
    crc32 (m ++ a :: m') ≠ crc32 (m ++ b :: m') := by
  intro heq
  have hupd : crcUpd (crcByte (crcUpd crcOnes m) a) m' = crcUpd (crcByte (crcUpd crcOnes m) b) m' := by
    simpa only [crcUpd_append, crcUpd_cons] using (BitVec.xor_left_inj _).1 heq
  exact h (crcByte_right_injective _ (crcUpd_left_injective m' hupd))

/-! ## The page checksum and the stored checksum -/

/-- The offsets that PageChecksum hashes: the page less the exclusion window (42_checksum.md R155). -/
def hashedOffsets : List Nat := (List.range 4096).filter fun k => ¬(8 ≤ k ∧ k < 12)

theorem mem_hashedOffsets {k : Nat} : k ∈ hashedOffsets ↔ k < 4096 ∧ ¬(8 ≤ k ∧ k < 12) := by
  rw [hashedOffsets, List.mem_filter, List.mem_range, decide_eq_true_iff]

theorem nodup_hashedOffsets : hashedOffsets.Nodup := List.nodup_range.filter _

theorem State.pageChecksum_eq_map (s : State) : s.pageChecksum = crc32 (hashedOffsets.map s.bufByte) := by
  rw [s.pageChecksum_eq_crc32, hashedOffsets, filter_range_outside 8 4 4084, List.map_append, List.map_map]
  rfl

/-- Pages that differ in exactly one hashed byte have different page checksums (42_checksum.md R159 law 4). -/
theorem State.pageChecksum_ne_of_one_byte {s t : State} {k : Nat} (hk : k < 4096) (hout : ¬(8 ≤ k ∧ k < 12))
    (hne : s.bufByte k ≠ t.bufByte k) (hrest : ∀ j, j < 4096 → j ≠ k → s.bufByte j = t.bufByte j) :
    s.pageChecksum ≠ t.pageChecksum := by
  obtain ⟨before, after, hsplit⟩ := List.append_of_mem (mem_hashedOffsets.2 ⟨hk, hout⟩)
  have hnodup := nodup_hashedOffsets
  rw [hsplit, List.nodup_middle, List.nodup_cons, List.mem_append, not_or] at hnodup
  have hsame {ks : List Nat} (hsub : ks ⊆ hashedOffsets) (hnot : k ∉ ks) : ks.map s.bufByte = ks.map t.bufByte :=
    List.map_congr_left fun j hj =>
      hrest j (mem_hashedOffsets.1 (hsub hj)).1 fun hjk => hnot (hjk ▸ hj)
  rw [s.pageChecksum_eq_map, t.pageChecksum_eq_map, hsplit, List.map_append, List.map_append, List.map_cons,
    List.map_cons, hsame (hsplit ▸ List.subset_append_left _ _) hnodup.1.1,
    hsame (hsplit ▸ fun _ hj => List.mem_append_right _ (List.mem_cons_of_mem _ hj)) hnodup.1.2]
  exact crc32_ne_of_one_byte _ _ hne

/-- Buffers that read alike in a range hold the same number there. -/
theorem State.bufNat_congr {s t : State} {off n : Nat}
    (h : ∀ k, off ≤ k → k < off + n → s.bufByte k = t.bufByte k) : s.bufNat off n = t.bufNat off n := by
  rw [State.bufNat_eq_ofDigits, State.bufNat_eq_ofDigits, State.bytes_congr h]

/-- What VERIFY tests, as a comparison of numbers (43_page.md R172). -/
theorem State.verified_iff (s : State) :
    s.verified = true ↔ s.len.toNat = 4096 ∧ s.bufNat 8 4 = s.pageChecksum.toNat := by
  rw [State.verified, Bool.and_eq_true, beq_iff_eq, ← BitVec.toNat_inj, State.storedChecksum,
    s.toNat_bufRead 8 (by decide)]
  exact and_congr_left' beq_iff_eq

/-! ## VERIFY and ISCORR -/

theorem exec_verify (s : State) : exec .verify s = .next (s.setResult (boolWord s.verified)) := rfl

theorem exec_iscorr (s : State) : exec .iscorr s = .next (s.setResult (boolWord (!s.verified))) := rfl

theorem State.verified_of_wholePage {s : State} (h : s.len.toNat = 4096) :
    s.verified = decide (s.bufNat 8 4 = s.pageChecksum.toNat) := by
  rw [Bool.eq_iff_iff, s.verified_iff, decide_eq_true_iff]
  exact and_iff_right h

theorem State.verified_of_not_wholePage {s : State} (h : s.len.toNat ≠ 4096) : s.verified = false :=
  Bool.eq_false_of_not_eq_true fun hv => h (s.verified_iff.1 hv).1

/-- VERIFY of a whole page is 1 exactly if the stored checksum is the page checksum (43_page.md R172). -/
theorem exec_verify_of_wholePage {s : State} (h : s.len.toNat = 4096) :
    exec .verify s = .next (s.setResult (if s.bufNat 8 4 = s.pageChecksum.toNat then 1 else 0)) := by
  rw [exec_verify, State.verified_of_wholePage h, boolWord]
  simp only [decide_eq_true_eq]

/-- Settles O37: the comparison of a whole page; any other LEN fails closed. -/
theorem verifyComparesTheStoredChecksum : Obligations.VerifyComparesTheStoredChecksum := by
  refine ⟨decode_encode .verify, fun s => ⟨exec_verify_of_wholePage, fun h => ?_⟩⟩
  rw [exec_verify, State.verified_of_not_wholePage h]
  rfl

/-- Settles O38: VERIFY's test negated, as a RESULT word. -/
theorem iscorrIsTheNegation : Obligations.IscorrIsTheNegation := by
  have hneg : ∀ b : Bool, boolWord (!b) = 1 - boolWord b := by decide
  refine ⟨decode_encode .iscorr, fun s => ⟨fun h => ?_, fun h => ?_, _, exec_verify s, ?_⟩⟩
  · rw [exec_iscorr, State.verified_of_wholePage h, ← decide_not, boolWord]
    simp only [decide_eq_true_eq, ite_not]
    rfl
  · rw [exec_iscorr, State.verified_of_not_wholePage h]
    rfl
  · rw [exec_iscorr, hneg]
    rfl

/-! ## CALC and a VERIFY after it -/

theorem exec_calcChecksum_of_wholePage {s : State} (h : s.len.toNat = 4096) :
    exec .calcChecksum s = .next ((s.setResult s.pageChecksum).bufWrite 8 4 s.pageChecksum) :=
  if_pos (beq_iff_eq.2 h)

/-- Settles O36: the two outcomes of CALC, by whether LEN is a whole page. -/
theorem calcStoresThePageChecksum : Obligations.CalcStoresThePageChecksum :=
  ⟨decode_encode .calcChecksum, fun _ => ⟨fun h => ⟨_, exec_calcChecksum_of_wholePage h, storesOnly_bufWrite _ 8 4 _⟩,
    fun h => if_neg (mt beq_iff_eq.1 h)⟩⟩

/-- A page as CALC leaves it: LEN is the whole page, and RESULT and the stored checksum are the page checksum. -/
structure State.Sealed (t : State) : Prop where
  len : t.len.toNat = 4096
  result : t.result = t.pageChecksum
  stored : t.bufNat 8 4 = t.pageChecksum.toNat

/-- CALC seals a whole page: what it stores, it stores in the window that the page checksum leaves out (42_checksum.md
R155, 43_page.md R171). -/
theorem sealed_of_calcChecksum {s t : State} (hlen : s.len.toNat = 4096) (h : exec .calcChecksum s = .next t) :
    t.Sealed := by
  rw [exec_calcChecksum_of_wholePage hlen] at h
  cases h
  have hsum : ((s.setResult s.pageChecksum).bufWrite 8 4 s.pageChecksum).pageChecksum = s.pageChecksum :=
    State.pageChecksum_congr fun k _ hout => by rw [State.bufByte_bufWrite, if_neg hout, State.setResult_bufByte]
  refine ⟨hlen, hsum.symm, ?_⟩
  rw [hsum, State.bufNat_bufWrite]
  exact Nat.mod_eq_of_lt s.pageChecksum.isLt

/-- VERIFY of a state whose page reads as a sealed one gives 1 (43_page.md R174). -/
theorem State.Sealed.exec_verify {t u : State} (ht : t.Sealed) (hlen : u.len.toNat = 4096)
    (hbytes : ∀ k, k < 4096 → u.bufByte k = t.bufByte k) : exec .verify u = .next (u.setResult 1) := by
  rw [exec_verify_of_wholePage hlen, if_pos]
  calc u.bufNat 8 4
      _ = t.bufNat 8 4 := State.bufNat_congr fun k _ hk => hbytes k (by omega)
      _ = t.pageChecksum.toNat := ht.stored
      _ = u.pageChecksum.toNat := congrArg _ (State.pageChecksum_congr fun k hk _ => (hbytes k hk).symm)

/-- Settles O39: CALC seals the page, and VERIFY of a sealed page gives 1. -/
theorem calcThenVerifyHolds : Obligations.CalcThenVerifyHolds := by
  intro s t u hlen hcalc hulen hbytes
  have ht := sealed_of_calcChecksum hlen hcalc
  exact ht.exec_verify (hulen ▸ ht.len) hbytes

/-- Settles O40: the stored checksum is the sealed page's still, and the changed page's checksum is another one; the old
byte written back makes the page read as the sealed one. -/
theorem oneByteChangeIsDetected : Obligations.OneByteChangeIsDetected := by
  intro s t u w k hlen hcalc hk hout hulen hwlen hne hrest hback
  have ht := sealed_of_calcChecksum hlen hcalc
  refine ⟨?_, ht.exec_verify hwlen fun j hj => ?_⟩
  · have hstored : u.bufNat 8 4 = t.pageChecksum.toNat :=
      (State.bufNat_congr fun j hlo hhi => hrest j (by omega) (by omega)).trans ht.stored
    have hsum : t.pageChecksum ≠ u.pageChecksum := (State.pageChecksum_ne_of_one_byte hk hout hne hrest).symm
    rw [exec_verify_of_wholePage hulen, hstored, if_neg (mt BitVec.eq_of_toNat_eq hsum)]
    rfl
  · rw [hback j hj]
    split_ifs with hjk
    · rw [hjk]
    · exact hrest j hj hjk

/-- Settles O41: the page checksum leaves the window out, so it is the sealed page's, which is CALC's RESULT. -/
theorem windowChangeIsComparedNotHashed : Obligations.WindowChangeIsComparedNotHashed := by
  intro s t u hlen hcalc hulen hbytes
  have hsum : u.pageChecksum = t.result :=
    (State.pageChecksum_congr hbytes).trans (sealed_of_calcChecksum hlen hcalc).result.symm
  rw [← hsum]
  exact ⟨exec_pcsum_of_wholePage hulen, exec_verify_of_wholePage hulen⟩

/-! ## The new page -/

/-- The bytes of a new page (43_page.md R170). -/
def newPageByte (k : Nat) : Byte := if k = 4 then 0x02 else if k = 6 then 0xF0 else if k = 7 then 0x0F else 0

/-- The state that PAGE_NEW answers (43_page.md R170). -/
def State.newPage (s : State) : State := (s.zeroBuf.bufWrite 4 1 0x02).bufWrite 6 2 0x0FF0

theorem exec_pageNew (s : State) : exec .pageNew s = .next s.newPage := rfl

theorem State.newPage_frame (s : State) : s.newPage = { s with buf := s.newPage.buf } :=
  bufOnly_trans s.zeroBuf_frame (bufOnly_trans (bufWrite_frame _ _ _ _) (bufWrite_frame _ _ _ _))

theorem State.bufByte_newPage (s : State) {k : Nat} (hk : k < 4096) : s.newPage.bufByte k = newPageByte k := by
  rw [State.newPage, State.bufByte_bufWrite, State.bufByte_bufWrite, State.bufByte_zeroBuf, if_pos hk, newPageByte]
  by_cases h4 : k = 4
  · subst h4; rfl
  by_cases h6 : k = 6
  · subst h6; rfl
  by_cases h7 : k = 7
  · subst h7; rfl
  rw [if_neg (by omega), if_neg (by omega), if_neg h4, if_neg h6, if_neg h7]

/-- Settles O35: the two stores of PAGE_NEW over a page of zeros. -/
theorem pageNewWritesTheNewPage : Obligations.PageNewWritesTheNewPage :=
  ⟨decode_encode .pageNew, fun s => ⟨_, exec_pageNew s, s.newPage_frame, fun _ => s.bufByte_newPage⟩⟩

theorem State.bytes_newPage (s : State) {off n : Nat} (h : off + n ≤ 4096) :
    s.newPage.bytes off n = (List.range n).map fun i => newPageByte (off + i) := by
  rw [State.bytes_eq]
  refine List.map_congr_left fun i hi => s.bufByte_newPage ?_
  have hin := List.mem_range.1 hi
  omega

/-- The CRC of the new page less its window, evaluated by the kernel (42_checksum.md R152, 43_page.md R177). -/
theorem crc32_newPage :
    crc32 (((List.range 8).map fun i => newPageByte (0 + i)) ++ (List.range 4084).map fun i => newPageByte (12 + i)) =
      0xF7A04C4D := by
  decide +kernel

theorem State.pageChecksum_newPage (s : State) : s.newPage.pageChecksum = 0xF7A04C4D := by
  rw [State.pageChecksum, s.bytes_newPage (by decide), s.bytes_newPage (by decide)]
  exact crc32_newPage

theorem State.bufNat_newPage (s : State) : s.newPage.bufNat 8 4 = 0 := by
  rw [State.bufNat_eq_ofDigits, s.bytes_newPage (by decide)]
  rfl

/-- Settles O42: the stored checksum of the new page is 0, which is not its page checksum. -/
theorem newPageDoesNotVerify : Obligations.NewPageDoesNotVerify := by
  intro s t hlen hnew
  obtain rfl : s.newPage = t := by simpa [exec_pageNew] using hnew
  have hwhole : s.newPage.len.toNat = 4096 := hlen
  have hnot : s.newPage.verified = false := by
    rw [State.verified_of_wholePage hwhole, s.bufNat_newPage, s.pageChecksum_newPage]
    rfl
  refine ⟨s.bufNat_newPage, ?_, ?_, ?_⟩
  · rw [exec_pcsum_of_wholePage hwhole, s.pageChecksum_newPage]
    rfl
  · rw [exec_verify, hnot]
    rfl
  · rw [exec_iscorr, hnot]
    rfl

end Sys2Proof.Machine

/-! # Proofs for 60_exceptions.md: what an error leaves unchanged, and that recorded host faults stay -/

namespace Sys2Proof.Machine

/-! ## Illegal words -/

/-- The decoder rejects an illegal word, whichever check of R86 it fails. -/
theorem exists_decode_error {c : Word} (h : (CmdFields.ofWord c).wellFormed = false) : ∃ e, decode c = .error e := by
  cases hd : decode c with
  | error e => exact ⟨e, rfl⟩
  | ok i => exact absurd ((decodeFields_ok_iff _).1 ⟨i, hd⟩) (Bool.eq_false_iff.1 h)

/-- Settles O7: the engine's turn on a word that the decoder rejects. -/
theorem illegalWordRaisesIllegalCommand : Obligations.IllegalWordRaisesIllegalCommand := by
  refine ⟨rfl, fun s rest c hturn hp hill => ?_⟩
  obtain ⟨e, hd⟩ := exists_decode_error hill
  obtain ⟨-, hreject, -⟩ := stepPerformsTheDecodedCommand s rest hturn
  exact hreject c e hp hd

/-! ## A command that raises an error -/

/-- An engine step after which an error stands that did not stand before did no more than take the word, raise and
complete: a command without an error leaves ERRCODE as it is (60_exceptions.md R201). -/
theorem engineStep_frame_of_error {s t : State} (h : engineStep s = .next t) (hs : s.errcode = .noError)
    (ht : t.errcode ≠ .noError) : ∃ e w, t = (s.unlatch.raise e w).complete := by
  rcases engineStep_cases h with ⟨-, rfl⟩ | ⟨c, i, u, -, -, hu, rfl⟩ | ⟨c, e, -, -, rfl⟩
  · exact absurd hs ht
  · rcases exec_cases hu with hc | ⟨e, w, rfl, -⟩
    · exact absurd (hc.errcode.trans hs) ht
    · exact ⟨e, w, rfl⟩
  · exact ⟨_, c, rfl⟩

/-- Settles O9: `raise` and `complete` write the error, DONE and the latch only. -/
theorem errorsLeaveNothingHalfDone : Obligations.ErrorsLeaveNothingHalfDone := by
  intro s t rest c hturn _ hs h ht
  rw [step_of_engineTurn hturn] at h
  obtain ⟨e, w, rfl⟩ := engineStep_frame_of_error h hs ht
  rfl

/-! ## The fault set only grows -/

/-- The engine records and clears no host fault. -/
theorem engineStep_faults {s t : State} (h : engineStep s = .next t) : t.faults = s.faults := by
  rcases engineStep_cases h with ⟨-, rfl⟩ | ⟨c, i, u, -, -, hu, rfl⟩ | ⟨c, e, -, -, rfl⟩
  · rfl
  · rcases exec_cases hu with hc | ⟨e, w, rfl, -⟩
    · exact hc.faults
    · rfl
  · rfl

/-- After a host access the fault set holds what it held and the faults of the access (60_exceptions.md R210). -/
theorem mem_faults_hostAccess {s t : State} {a : Access} (h : hostAccess s a = .next t) (f : HostFault) :
    f ∈ t.faults ↔ f ∈ accessFaults s a ∨ f ∈ s.faults := by
  obtain ⟨-, ⟨hnone, rfl⟩ | ⟨-, rfl⟩⟩ := hostAccess_cases h
  · simp [admittedAccess_faults, hnone]
  · exact mem_recordFaults _ f _

/-- Settles O12: the engine and the reset keep the fault set, a host access adds to it. -/
theorem recordedFaultsStay : Obligations.RecordedFaultsStay := by
  intro s t f h hf
  obtain ⟨rest, ⟨-, he⟩ | ⟨-, rfl⟩ | ⟨a, b, -, -, ha⟩⟩ := step_cases h
  · rw [engineStep_faults he]
    exact hf
  · exact hf
  · exact (mem_faults_hostAccess ha f).2 (.inr hf)

end Sys2Proof.Machine

/-! # Proofs for 70_reset_and_hazards.md: the reset, the busy window, and that every run ends -/

namespace Sys2Proof.Machine

/-! ## The busy window -/

/-- Settles O23: in flight no write is admitted, so a host access leaves what a read or a refused access leaves. -/
theorem nothingChangesInFlight : Obligations.NothingChangesInFlight := by
  intro s t a rest hbusy hin h
  obtain ⟨off, ha⟩ := hostAccess_of_step hin h
  rcases hostAccess_effect ha with ⟨fs, r, d, rfl⟩ | ⟨v, -, hidle, -⟩
  · rfl
  · exact absurd hidle hbusy

/-- The state after a read that the busy window leaves open: a free value of `bits` bits is answered and the counter of
the free values moves on (70_reset_and_hazards.md R242, log 4). -/
def State.answerFree (s : State) (bits : Nat) : State :=
  { s with reply := some (.data (lowBits bits (Config.freeRead s.draws))), draws := s.draws + 1 }

theorem toNat_lowBits_lt (bits : Nat) (v : Word) : (lowBits bits v).toNat < 2 ^ bits := by
  have hpos : 0 < 2 ^ bits := Nat.two_pow_pos bits
  calc (lowBits bits v).toNat
    _ = v.toNat &&& (2 ^ bits - 1) % 2 ^ 32 := by rw [lowBits, BitVec.toNat_and, BitVec.toNat_ofNat]
    _ ≤ (2 ^ bits - 1) % 2 ^ 32 := Nat.and_le_right
    _ ≤ 2 ^ bits - 1 := Nat.mod_le _ _
    _ < 2 ^ bits := by omega

/-- In flight, a read of what is open answers a free value whatever was stored. -/
theorem answerRead_open {s : State} {c : Word} (h : s.pending = some c) (bits : Nat) (v : Word) :
    answerRead s true bits v = s.answerFree bits := by
  rw [answerRead, if_pos (by simp [State.busy, h])]
  rfl

/-- A row of the open registers is a register whose read in flight is open, with its width. -/
theorem exists_reg_of_mem_openRegisters {a w : Nat} (h : (a, w) ∈ openRegisters) :
    ∃ r : Reg, r.offset = a ∧ r.width = w ∧ r.openInFlight = true := by
  simp only [openRegisters, List.mem_cons, List.not_mem_nil, or_false, Prod.mk.injEq] at h
  rcases h with ⟨rfl, rfl⟩ | ⟨rfl, rfl⟩ | ⟨rfl, rfl⟩ | ⟨rfl, rfl⟩ | ⟨rfl, rfl⟩ | ⟨rfl, rfl⟩ | ⟨rfl, rfl⟩ | ⟨rfl, rfl⟩
  exacts [⟨.errinfo, rfl, rfl, rfl⟩, ⟨.result, rfl, rfl, rfl⟩, ⟨.hdrPageId, rfl, rfl, rfl⟩, ⟨.hdrType, rfl, rfl, rfl⟩,
    ⟨.hdrFlags, rfl, rfl, rfl⟩, ⟨.hdrFree, rfl, rfl, rfl⟩, ⟨.hdrCksum, rfl, rfl, rfl⟩, ⟨.hdrLsn, rfl, rfl, rfl⟩]

/-- A read of an open register in flight, as a step. -/
theorem step_openRegRead {s : State} {r : Reg} {rest : List Event} {c : Word} (hp : s.pending = some c)
    (hin : s.inbox = .host { addr := r.offset, width := 4, dir := .read } :: rest) (hopen : r.openInFlight = true) :
    step s = .next (({ s with inbox := rest } : State).answerFree r.width) := by
  rw [step_of_admitted hin r.offset_lt_windowSize (mapFault_reg r .read) (by simp [Dir.isWrite]), admittedAccess_reg,
    regAccess, hopen, answerRead_open (s := { s with inbox := rest }) hp]

theorem admittedAccess_buf (s : State) (k n : Nat) (d : Dir) :
    admittedAccess s { addr := Config.bufWindow + k, width := n, dir := d } = bufAccess s k n d := by
  rw [admittedAccess, if_neg (Nat.not_lt.2 (Nat.le_add_right _ _))]
  dsimp only
  rw [Nat.add_sub_cancel_left]

/-- An aligned read of the buffer window in flight, as a step. -/
theorem step_bufReadInFlight {s : State} {k n : Nat} {rest : List Event} {c : Word} (hp : s.pending = some c)
    (hin : s.inbox = .host { addr := Config.bufWindow + k, width := n, dir := .read } :: rest)
    (hn : n = 1 ∨ n = 2 ∨ n = 4) (hk : k < Config.bufCap) (halign : k % n = 0) :
    step s = .next (({ s with inbox := rest } : State).answerFree (8 * n)) := by
  rw [step_of_admitted hin (Nat.add_lt_add_left hk _) (mapFault_buf hn halign .read) (by simp [Dir.isWrite]),
    admittedAccess_buf, bufAccess, answerRead_open (s := { s with inbox := rest }) hp]

/-- Settles O18: an open read in flight answers the low bits of a free value. -/
theorem readsInFlightAnswerSomeValue : Obligations.ReadsInFlightAnswerSomeValue := by
  intro s rest c a n hp hin
  refine ⟨fun w hn hw => ?_, fun hn halign hlo hhi => ?_⟩
  · obtain ⟨r, rfl, rfl, hopen⟩ := exists_reg_of_mem_openRegisters hw
    subst hn
    exact ⟨_, toNat_lowBits_lt r.width _, step_openRegRead hp hin hopen⟩
  · obtain ⟨k, rfl⟩ := Nat.exists_eq_add_of_le hlo
    have hk : k % n = 0 := by rcases hn with rfl | rfl | rfl <;> omega
    exact ⟨_, toNat_lowBits_lt (8 * n) _, step_bufReadInFlight hp hin hn (Nat.lt_of_add_lt_add_left hhi) hk⟩

/-! ## The reset -/

theorem step_reset {s : State} {rest : List Event} (h : s.inbox = .reset :: rest) :
    step s = .next ({ s with inbox := rest } : State).resetBlock :=
  step_cons h

/-- No byte of BUF is listed after a reset, so each is drawn anew (70_reset_and_hazards.md R231). -/
theorem State.resetBlock_bufByte (s : State) (k : Nat) : s.resetBlock.bufByte k = Config.resetByte (s.resets + 1) k :=
  rfl

/-- An engine step that changes what BUF holds anywhere performed a command: an idle turn and an illegal word leave
it. -/
theorem exists_decode_of_engineStep_bufByte {s t : State} {k : Nat} (h : engineStep s = .next t)
    (hne : t.bufByte k ≠ s.bufByte k) : ∃ c i, s.pending = some c ∧ decode c = .ok i := by
  rcases engineStep_cases h with ⟨-, rfl⟩ | ⟨c, i, u, hp, hd, -, -⟩ | ⟨c, e, -, -, rfl⟩
  · exact absurd rfl hne
  · exact ⟨c, i, hp, hd⟩
  · exact absurd rfl hne

/-- Settles O26: the reset empties the listing, and of the other steps only a write and a command change it. -/
theorem resetDrawsTheBufferOnce : Obligations.ResetDrawsTheBufferOnce := by
  refine ⟨fun s rest hin => ⟨_, step_reset hin, rfl, State.resetBlock_bufByte _⟩, fun s t k h hne => ?_⟩
  obtain ⟨rest, ⟨hturn, he⟩ | ⟨hreset, -⟩ | ⟨a, b, hin, hdir, ha⟩⟩ := step_cases h
  · obtain ⟨c, i, hp, hd⟩ := exists_decode_of_engineStep_bufByte he hne
    exact .inr (.inr ⟨rest, c, i, hturn, hp, hd⟩)
  · exact .inl ⟨rest, hreset⟩
  · exact .inr (.inl ⟨a, rest, hin, fun hread => hne (hostAccess_bufByte_of_read ha (hdir.trans hread) k)⟩)

/-- Settles O25: the reset signal's step is `resetBlock`, whose registers are literals. -/
theorem resetSignalResetsTheBlock : Obligations.ResetSignalResetsTheBlock :=
  fun _ _ hin => ⟨_, step_reset hin, rfl, rfl, rfl, rfl⟩

/-! ## Every run ends -/

/-- The engine always has a step, which empties the latch and takes no event. -/
theorem engineStep_next (s : State) :
    ∃ t, engineStep s = .next t ∧ t.pending = none ∧ t.inbox = s.inbox := by
  cases hp : s.pending with
  | none => exact ⟨s, engineStep_of_idle hp, hp, rfl⟩
  | some c =>
    rw [engineStep_of_pending hp]
    cases hd : decode c with
    | ok i =>
      obtain ⟨u, hu, hframe⟩ := exec_next i s.unlatch
      refine ⟨u.complete, by rw [perform_ok hd, hu, thenComplete_next], ?_, ?_⟩ <;> rw [hframe] <;> rfl
    | error e => exact ⟨_, perform_error hd s, rfl, rfl⟩

theorem State.writeReg_inbox (s : State) (r : Reg) (v : Word) : (s.writeReg r v).inbox = s.inbox := by
  cases r <;> rfl

/-- A host access takes no event beyond its own. -/
theorem hostAccess_inbox {s t : State} {a : Access} (h : hostAccess s a = .next t) : t.inbox = s.inbox := by
  rcases hostAccess_effect h with ⟨fs, r, d, rfl⟩ | ⟨v, -, -, ⟨r, rfl⟩ | ⟨k, n, -, rfl⟩⟩
  · rfl
  · exact s.writeReg_inbox r v
  · rfl

/-- Every access inside the window is answered, be it by a bus error (60_exceptions.md R210). -/
theorem hostAccess_next (s : State) {a : Access} (ha : a.addr < Config.windowSize) :
    ∃ t, hostAccess s a = .next t ∧ t.inbox = s.inbox := by
  have hnext : ∃ t, hostAccess s a = .next t := by
    by_cases hf : accessFaults s a = []
    · exact ⟨_, hostAccess_of_admitted ha hf⟩
    · exact ⟨_, hostAccess_of_faulty ha hf⟩
  obtain ⟨t, ht⟩ := hnext
  exact ⟨t, ht, hostAccess_inbox ht⟩

/-- A step on an event inside the window answers a next state and takes that event alone. -/
theorem step_next_of_inWindow {s : State} {e : Event} {rest : List Event} (hin : s.inbox = e :: rest)
    (he : e.InWindow) : ∃ t, step s = .next t ∧ t.inbox = rest := by
  rw [step_cons hin]
  cases e with
  | host a => exact hostAccess_next { s with inbox := rest } he
  | bus a =>
    obtain ⟨off, haddr⟩ := Nat.exists_eq_add_of_le he.1
    have hoff : off < Config.windowSize := Nat.lt_of_add_lt_add_left (haddr ▸ he.2)
    rw [handleEvent, haddr, windowOffset_base_add hoff]
    exact hostAccess_next { s with inbox := rest } (a := { a with addr := off }) hoff
  | engine =>
    obtain ⟨t, ht, -, hrest⟩ := engineStep_next { s with inbox := rest }
    exact ⟨t, ht, hrest⟩
  | reset => exact ⟨_, rfl, rfl⟩

/-- With the environment silent and nothing pending a step changes nothing (log 6). -/
theorem step_of_quiet {s : State} (hin : s.inbox = []) (hp : s.pending = none) : step s = .next s := by
  rw [step_nil hin, engineStep_of_idle hp]

/-- Settles O13, by induction on the events left: each step takes one, and the engine has the last. -/
theorem everyRunEnds : Obligations.EveryRunEnds := by
  intro s hwin
  generalize hin : s.inbox = es at hwin
  induction es generalizing s with
  | nil =>
    obtain ⟨t, ht, hp, hrest⟩ := engineStep_next s
    have hquiet : t.inbox = [] := hrest.trans hin
    exact ⟨t, run_succ ((step_nil hin).trans ht) 0, hquiet, hp, step_of_quiet hquiet hp⟩
  | cons e rest ih =>
    obtain ⟨he, hrest⟩ := List.forall_mem_cons.1 hwin
    obtain ⟨u, hu, hinu⟩ := step_next_of_inWindow hin he
    obtain ⟨t, ht, hend⟩ := ih u hinu hrest
    exact ⟨t, (run_succ hu _).trans ht, hend⟩

end Sys2Proof.Machine
